-- ==== Sys2Proof/Word.lean ====
section
/-! DEFINITION. The word types of the block: bytes, 16-bit counts and request words (00_scope.md R7, R13).
Every value is unsigned; no operation of the block is signed. -/

namespace Sys2Proof

/-- An 8-bit value: a transferred byte, a request operand field, `CFG.COLS`, `CFG.ROWS`, `CURLINE` (R7, R30, R39). -/
abbrev Byte := BitVec 8

/-- A 16-bit unsigned count: a DELAY operand, a string length, a timing parameter (R101, R153). -/
abbrev Half := BitVec 16

/-- A REQ32 request word (R101). -/
abbrev Word := BitVec 32

end Sys2Proof
end

