-- ==== Sys2Proof/Config.lean ====
section
/-! DEFINITION. What construction fixes (00_scope.md R5, R6) and the one free value of the model, the bus oracle's
answer (40_protocol_engine.md R151). -/

namespace Sys2Proof

/-- The bus variant, chosen once at construction (R5, R30). -/
inductive Variant where
  /-- the I2C GPIO expander (PCF8574-class): one byte drives every line. -/
  | expander
  /-- six independent GPIO lines, without a backlight line. -/
  | discrete
  deriving DecidableEq, Repr

/-- What the bus oracle answers to one bus write (R151). -/
inductive Answer where
  | ok
  | fail
  deriving DecidableEq, Repr, Inhabited

/-- The construction arguments (R5) and the named timing parameters (R6). They never change afterwards (R30).
`PINS` is abstracted away: the model sees logical lines only (R5, decision D3). -/
structure Config where
  /-- `CFG.VARIANT`. -/
  variant : Variant
  /-- `CFG.I2C_ADDR`, read on the EXPANDER variant only (R30); every 7-bit value is accepted (R31). -/
  i2cAddr : BitVec 7
  /-- `CFG.COLS`, 1..255; 0 is refused at construction (R31). -/
  cols : Byte
  /-- `CFG.ROWS`, 0..255; only 1, 2 and 4 have a row-offset mapping (R5, R73). -/
  rows : Byte
  /-- `BL_INIT`, the open backlight value at reset (R5, R34). -/
  blInit : Bool
  /-- `T_EN_HIGH_US`, in microseconds. -/
  tEnHighUs : Half
  /-- `T_EN_SETTLE_US`, in microseconds. -/
  tEnSettleUs : Half
  /-- `T_PWR_A_MS`, in milliseconds. -/
  tPwrAMs : Half
  /-- `T_PWR_B_MS`, in milliseconds. -/
  tPwrBMs : Half
  /-- `T_INIT3_US`, in microseconds. -/
  tInit3Us : Half
  /-- `T_CLEAR_MS`, in milliseconds. -/
  tClearMs : Half
  /-- `T_HOME_MS`, in milliseconds. -/
  tHomeMs : Half
  deriving DecidableEq, Repr

/-- The arguments `State.reset` is built with. The timing values and the I2C address are the document's defaults
(R5, R6). DESIGN CHOICE (log 2, unsafe): the EXPANDER variant and 16 columns by 2 rows, as in the end-to-end scenario
of 95_test_vectors.md V-L1-7. DESIGN CHOICE (log 3, unsafe): `BL_INIT = 0`, which the spec leaves open. -/
def Config.standard : Config where
  variant := .expander
  i2cAddr := 0x27#7
  cols := 16#8
  rows := 2#8
  blInit := false
  tEnHighUs := 1#16
  tEnSettleUs := 50#16
  tPwrAMs := 50#16
  tPwrBMs := 1000#16
  tInit3Us := 4500#16
  tClearMs := 2#16
  tHomeMs := 2#16

/-- The timing parameters hold the document's defaults (the table of R6). Only a claim that names durations uses it. -/
abbrev Config.DefaultTiming (c : Config) : Prop :=
  c.tEnHighUs = 1#16 ∧ c.tEnSettleUs = 50#16 ∧ c.tPwrAMs = 50#16 ∧ c.tPwrBMs = 1000#16 ∧
    c.tInit3Us = 4500#16 ∧ c.tClearMs = 2#16 ∧ c.tHomeMs = 2#16

/-- FREE VALUE (log 1, safe): the bus oracle's answer to the `n`-th bus write, where the state lists no answer for it.
The spec calls it "a free draw" with "no law relating one answer to another" (R151), so it has no body and nothing
constrains it. -/
opaque Config.freeAnswer : Nat → Answer

end Sys2Proof
end

