-- ==== Sys2Proof/Syntax.lean ====
section
/-! DEFINITION. The instructions: one constructor per row of opcode_table.json. Twenty rows are host requests (REQ32,
30_encoding.md R102), ten are transfers to the controller (CMD9, R109) and two are handshake nibbles (NIB5, R112). -/

namespace Sys2Proof

/-- A decoded instruction. A string operand carries its bytes; its length is the request's `n` (R105). -/
inductive Instr where
  /-- INIT, OP 0x01 (R200). -/
  | init
  /-- SENDC value, OP 0x02 (R158). -/
  | sendc (value : Byte)
  /-- SENDD value, OP 0x03 (R159). -/
  | sendd (value : Byte)
  /-- BACKLIGHT on, OP 0x04 (R161). -/
  | backlight (on : Bool)
  /-- DELAY_MS n, OP 0x05 (R162). -/
  | delayMs (n : Half)
  /-- DELAY_US n, OP 0x06 (R163). -/
  | delayUs (n : Half)
  /-- DISPLAY on, OP 0x10 (R251). -/
  | display (on : Bool)
  /-- CURSOR on, OP 0x11 (R252). -/
  | cursor (on : Bool)
  /-- BLINK on, OP 0x12 (R253). -/
  | blink (on : Bool)
  /-- AUTOSCROLL on, OP 0x13 (R254). -/
  | autoscroll (on : Bool)
  /-- LEFT_TO_RIGHT, OP 0x14 (R255). -/
  | leftToRight
  /-- RIGHT_TO_LEFT, OP 0x15 (R256). -/
  | rightToLeft
  /-- SET_CURSOR col, row, OP 0x20 (R280). -/
  | setCursor (col row : Byte)
  /-- PRINT_CHAR ch, OP 0x21 (R282). -/
  | printChar (ch : Byte)
  /-- PRINT_STR, OP 0x22, payload `str` (R283). -/
  | printStr (str : List Byte)
  /-- PRINT_LONG_STR, OP 0x23, payload `str` (R284). -/
  | printLongStr (str : List Byte)
  /-- HOME, OP 0x24 (R285). -/
  | home
  /-- CLEAR, OP 0x25 (R286). -/
  | clear
  /-- NEXT_LINE, OP 0x26 (R287). -/
  | nextLine
  /-- CREATE_CHAR slot, OP 0x30, payload `bitmap` of eight bytes (R320). -/
  | createChar (slot : Byte) (bitmap : List Byte)
  /-- ClearDisplay, `0 00000001` (R331). -/
  | clearDisplay
  /-- ReturnHome, `0 0000001x` (R332); `x` is ignored by the controller and transmitted as given. -/
  | returnHome (x : BitVec 1)
  /-- EntryModeSet, `0 000001is` (R333). -/
  | entryModeSet (i s : Bool)
  /-- DisplayControl, `0 00001dcb` (R334). -/
  | displayControl (d c b : Bool)
  /-- CursorShift, `0 0001prxx` (R335). -/
  | cursorShift (p r : Bool) (x : BitVec 2)
  /-- FunctionSet, `0 001lnfxx` (R336). -/
  | functionSet (l n f : Bool) (x : BitVec 2)
  /-- SetCGRAMAddr, `0 01aaaaaa` (R337). -/
  | setCGRAMAddr (a : BitVec 6)
  /-- SetDDRAMAddr, `0 1aaaaaaa` (R338). -/
  | setDDRAMAddr (a : BitVec 7)
  /-- WriteData, `1 dddddddd` (R339). -/
  | writeData (d : Byte)
  /-- The byte 0x00 with RS = 0, `0 00000000`: no command of the document's list, transmitted as given (R342). -/
  | reserved00
  /-- Handshake nibble 0x3, `0 0011` (R340). -/
  | handshakeNibble3
  /-- Handshake nibble 0x2, `0 0010` (R341). -/
  | handshakeNibble2
  deriving DecidableEq, Repr

/-- An undecoded instruction as it stands at a port of the block, in one of the three instruction formats of R100.
A host only ever issues `request`. The other two are what the composer and the sequencer hand to the nibble
serializer; the model can run each on its own (log 5, DESIGN CHOICE, safe: it admits more runs than the block has). -/
inductive PortWord where
  /-- A REQ32 word with its payload (R101, R105). -/
  | request (word : Word) (payload : List Byte)
  /-- A CMD9 transfer: RS is bit 8, the value bits 7:0 (R109). -/
  | transfer (cmd : BitVec 9)
  /-- A NIB5 handshake nibble: RS is bit 4, the nibble bits 3:0 (R112). -/
  | nibble (nib : BitVec 5)
  deriving DecidableEq, Repr

end Sys2Proof
end

