-- ==== Sys2Proof/WellFormed.lean ====
section
/-! DEFINITION. Which instructions an encoding exists for: the payload lengths of 30_encoding.md R105. Every other
operand is already bounded by its type. -/

namespace Sys2Proof

/-- A string's length fits the 16-bit count `n`, and a bitmap is exactly eight bytes (R105). -/
def Instr.wf : Instr → Bool
  | .printStr str => str.length < 65536
  | .printLongStr str => str.length < 65536
  | .createChar _ bitmap => bitmap.length == 8
  | .init | .sendc _ | .sendd _ | .backlight _ | .delayMs _ | .delayUs _ => true
  | .display _ | .cursor _ | .blink _ | .autoscroll _ | .leftToRight | .rightToLeft => true
  | .setCursor _ _ | .printChar _ | .home | .clear | .nextLine => true
  | .clearDisplay | .returnHome _ | .entryModeSet _ _ | .displayControl _ _ _ => true
  | .cursorShift _ _ _ | .functionSet _ _ _ _ | .setCGRAMAddr _ | .setDDRAMAddr _ => true
  | .writeData _ | .reserved00 | .handshakeNibble3 | .handshakeNibble2 => true

end Sys2Proof
end

