-- ==== Sys2Proof/Decode.lean ====
section
/-! DEFINITION. The decoder, total on every port word and refusing by name (30_encoding.md R101 to R105, R109, R112),
and after it the encoder, written from the same tables. -/

namespace Sys2Proof

/-- Why a port word is no instruction. Cases one to five are (a) to (e) of R104, in that order; where several hold, the
first is named (log 6, DESIGN CHOICE, safe: R104 gives all of them the one reason `IllegalRequest`). -/
inductive Illegal where
  /-- (a) `OP` is not in the table of R102, 0x00 included. -/
  | opcode
  /-- (b) `A` is not 0. -/
  | fieldA
  /-- (c) a field the table shows as 0 is not 0. -/
  | zeroField
  /-- (d) a flag field `on` is not 0 or 1. -/
  | flag
  /-- (e) the payload length differs from R105. -/
  | payloadLength
  /-- A NIB5 word other than the two values the sequencer sends (R112). -/
  | notHandshake
  deriving DecidableEq, Repr

/-! ## Fields and checks of a request word -/

/-- `OP`, bits 31:24 (R101). -/
def opField (w : Word) : Byte := w.extractLsb' 24 8
/-- `A`, bits 23:16, reserved (R101). -/
def aField (w : Word) : Byte := w.extractLsb' 16 8
/-- `B`, bits 15:8 (R101). -/
def bField (w : Word) : Byte := w.extractLsb' 8 8
/-- `C`, bits 7:0 (R101). -/
def cField (w : Word) : Byte := w.extractLsb' 0 8
/-- The 16-bit operand `n = {B, C}`, `B` the high byte (R101, R77). -/
def nField (w : Word) : Half := w.extractLsb' 0 16

/-- The checks (b) to (e) of R104 in order: `zeros`, `flag` and `length` say whether (c), (d) and (e) are met. -/
def checked (w : Word) (zeros flag length : Bool) (i : Instr) : Except Illegal Instr :=
  if aField w ≠ 0#8 then .error .fieldA
  else if !zeros then .error .zeroField
  else if !flag then .error .flag
  else if !length then .error .payloadLength
  else .ok i

/-- A request without operands: `A = B = C = 0`, no payload. -/
def decodeBare (w : Word) (payload : List Byte) (i : Instr) : Except Illegal Instr :=
  checked w (bField w == 0#8 && cField w == 0#8) true payload.isEmpty i

/-- A request with one byte operand in field `C`; `B = 0`, no payload. -/
def decodeByte (w : Word) (payload : List Byte) (f : Byte → Instr) : Except Illegal Instr :=
  checked w (bField w == 0#8) true payload.isEmpty (f (cField w))

/-- A request with the flag `on` in field `C`; `B = 0`, no payload. -/
def decodeFlag (w : Word) (payload : List Byte) (f : Bool → Instr) : Except Illegal Instr :=
  checked w (bField w == 0#8) (cField w == 0#8 || cField w == 1#8) payload.isEmpty (f (cField w == 1#8))

/-- A request with the count `n = {B, C}`, no payload. -/
def decodeCount (w : Word) (payload : List Byte) (f : Half → Instr) : Except Illegal Instr :=
  checked w true true payload.isEmpty (f (nField w))

/-- A request with two byte operands in `B` and `C`, no payload. -/
def decodePair (w : Word) (payload : List Byte) (f : Byte → Byte → Instr) : Except Illegal Instr :=
  checked w true true payload.isEmpty (f (bField w) (cField w))

/-- A request with a payload of exactly `n = {B, C}` bytes. -/
def decodeString (w : Word) (payload : List Byte) (f : List Byte → Instr) : Except Illegal Instr :=
  checked w true true (payload.length == (nField w).toNat) (f payload)

/-- A request with a slot in `C`, `B = 0` and a payload of exactly eight bytes. -/
def decodeGlyph (w : Word) (payload : List Byte) (f : Byte → List Byte → Instr) : Except Illegal Instr :=
  checked w (bField w == 0#8) true (payload.length == 8) (f (cField w) payload)

/-- A REQ32 word and its payload (the map of R102). -/
def decodeRequest (w : Word) (payload : List Byte) : Except Illegal Instr :=
  match (opField w).toNat with
  | 0x01 => decodeBare w payload .init
  | 0x02 => decodeByte w payload .sendc
  | 0x03 => decodeByte w payload .sendd
  | 0x04 => decodeFlag w payload .backlight
  | 0x05 => decodeCount w payload .delayMs
  | 0x06 => decodeCount w payload .delayUs
  | 0x10 => decodeFlag w payload .display
  | 0x11 => decodeFlag w payload .cursor
  | 0x12 => decodeFlag w payload .blink
  | 0x13 => decodeFlag w payload .autoscroll
  | 0x14 => decodeBare w payload .leftToRight
  | 0x15 => decodeBare w payload .rightToLeft
  | 0x20 => decodePair w payload .setCursor
  | 0x21 => decodeByte w payload .printChar
  | 0x22 => decodeString w payload .printStr
  | 0x23 => decodeString w payload .printLongStr
  | 0x24 => decodeBare w payload .home
  | 0x25 => decodeBare w payload .clear
  | 0x26 => decodeBare w payload .nextLine
  | 0x30 => decodeGlyph w payload .createChar
  | _ => .error .opcode

/-- The instruction byte of a COMMAND transfer, named by its most significant 1 bit (R109). -/
def decodeCommand (v : Byte) : Instr :=
  if v[7] then .setDDRAMAddr (v.extractLsb' 0 7)
  else if v[6] then .setCGRAMAddr (v.extractLsb' 0 6)
  else if v[5] then .functionSet v[4] v[3] v[2] (v.extractLsb' 0 2)
  else if v[4] then .cursorShift v[3] v[2] (v.extractLsb' 0 2)
  else if v[3] then .displayControl v[2] v[1] v[0]
  else if v[2] then .entryModeSet v[1] v[0]
  else if v[1] then .returnHome (v.extractLsb' 0 1)
  else if v[0] then .clearDisplay
  else .reserved00

/-- A CMD9 transfer: with RS = 1 the byte is data, with RS = 0 an instruction byte (R109). -/
def decodeTransfer (cmd : BitVec 9) : Instr :=
  if cmd[8] then .writeData (cmd.extractLsb' 0 8) else decodeCommand (cmd.extractLsb' 0 8)

/-- A NIB5 handshake nibble: RS = 0 and N = 0x3 or 0x2 (R112). -/
def decodeNibble (nib : BitVec 5) : Except Illegal Instr :=
  if nib = 0b00011#5 then .ok .handshakeNibble3
  else if nib = 0b00010#5 then .ok .handshakeNibble2
  else .error .notHandshake

/-- The decoder: an instruction, or the reason the word is none. -/
def decode : PortWord → Except Illegal Instr
  | .request w payload => decodeRequest w payload
  | .transfer cmd => .ok (decodeTransfer cmd)
  | .nibble nib => decodeNibble nib

/-! ## The host's numbering of the opcode table -/

/-- How many payload bytes a request word fixes (R105). -/
def payloadLength (w : Word) : Nat :=
  match (opField w).toNat with
  | 0x22 => (nField w).toNat
  | 0x23 => (nField w).toNat
  | 0x30 => 8
  | _ => 0

/-- The port word of a table row's word: rows of one byte are NIB5, of two bytes CMD9, of four bytes REQ32, its payload
all zeros. A number too large for its format becomes the illegal request 0x00000000. -/
def tablePort (nbits w : Nat) : PortWord :=
  if nbits ≤ 8 then (if w < 2 ^ 5 then .nibble (BitVec.ofNat 5 w) else .request 0#32 [])
  else if nbits ≤ 16 then (if w < 2 ^ 9 then .transfer (BitVec.ofNat 9 w) else .request 0#32 [])
  else if w < 2 ^ 32 then
    .request (BitVec.ofNat 32 w) (List.replicate (payloadLength (BitVec.ofNat 32 w)) 0#8)
  else .request 0#32 []

/-- The instruction the decoder reads from an opcode-table word, payload bytes zero. -/
def decodeTableWord (nbits w : Nat) : Option Instr :=
  match decode (tablePort nbits w) with
  | .ok i => some i
  | .error _ => none

/-! ## Command bytes (R109, R110) -/

/-- A flag at bit `k` of a byte. -/
def flagBit (on : Bool) (k : Nat) : Byte := (BitVec.ofBool on).setWidth 8 <<< k

/-- ClearDisplay = 0x01 (R331). -/
def clearDisplayByte : Byte := 0x01#8
/-- ReturnHome = 0x02; bit 0 is ignored by the controller (R332). -/
def returnHomeByte (x : BitVec 1) : Byte := 0x02#8 ||| x.setWidth 8
/-- EntryModeSet = 0x04, `i` at bit 1, `s` at bit 0 (R333). -/
def entryModeSetByte (i s : Bool) : Byte := 0x04#8 ||| flagBit i 1 ||| flagBit s 0
/-- DisplayControl = 0x08, `d` at bit 2, `c` at bit 1, `b` at bit 0 (R334). -/
def displayControlByte (d c b : Bool) : Byte := 0x08#8 ||| flagBit d 2 ||| flagBit c 1 ||| flagBit b 0
/-- CursorShift = 0x10, `p` at bit 3, `r` at bit 2 (R335). -/
def cursorShiftByte (p r : Bool) (x : BitVec 2) : Byte := 0x10#8 ||| flagBit p 3 ||| flagBit r 2 ||| x.setWidth 8
/-- FunctionSet = 0x20, `l` at bit 4, `n` at bit 3, `f` at bit 2 (R336). -/
def functionSetByte (l n f : Bool) (x : BitVec 2) : Byte :=
  0x20#8 ||| flagBit l 4 ||| flagBit n 3 ||| flagBit f 2 ||| x.setWidth 8
/-- SetCGRAMAddr = 0x40 with a 6-bit address (R337). -/
def setCGRAMAddrByte (a : BitVec 6) : Byte := 0x40#8 ||| a.setWidth 8
/-- SetDDRAMAddr = 0x80 with a 7-bit address (R338). -/
def setDDRAMAddrByte (a : BitVec 7) : Byte := 0x80#8 ||| a.setWidth 8

/-! ## The encoder -/

/-- A request word `{OP, A = 0, B, C}` (R101). -/
def requestWord (op b c : Byte) : Word :=
  op.setWidth 32 <<< 24 ||| b.setWidth 32 <<< 8 ||| c.setWidth 32

/-- The flag field: `on` in bit 0 of a byte (R103). -/
def flagField (on : Bool) : Byte := flagBit on 0

/-- A request that carries no payload. -/
def plainRequest (op b c : Byte) : PortWord := .request (requestWord op b c) []

/-- A request that carries a count in `{B, C}`. -/
def countWord (op : Byte) (n : Half) : Word := requestWord op (n.extractLsb' 8 8) (n.extractLsb' 0 8)

/-- A request that carries a string: `n` is its length (R105). -/
def stringRequest (op : Byte) (str : List Byte) : PortWord :=
  .request (countWord op (BitVec.ofNat 16 str.length)) str

/-- A COMMAND transfer: RS = 0 at bit 8 (R109). -/
def commandTransfer (v : Byte) : PortWord := .transfer (v.setWidth 9)

/-- A DATA transfer: RS = 1 at bit 8 (R109). -/
def dataTransfer (v : Byte) : PortWord := .transfer (0x100#9 ||| v.setWidth 9)

/-- The port word of an instruction. -/
def encode : Instr → PortWord
  | .init => plainRequest 0x01#8 0#8 0#8
  | .sendc value => plainRequest 0x02#8 0#8 value
  | .sendd value => plainRequest 0x03#8 0#8 value
  | .backlight on => plainRequest 0x04#8 0#8 (flagField on)
  | .delayMs n => .request (countWord 0x05#8 n) []
  | .delayUs n => .request (countWord 0x06#8 n) []
  | .display on => plainRequest 0x10#8 0#8 (flagField on)
  | .cursor on => plainRequest 0x11#8 0#8 (flagField on)
  | .blink on => plainRequest 0x12#8 0#8 (flagField on)
  | .autoscroll on => plainRequest 0x13#8 0#8 (flagField on)
  | .leftToRight => plainRequest 0x14#8 0#8 0#8
  | .rightToLeft => plainRequest 0x15#8 0#8 0#8
  | .setCursor col row => plainRequest 0x20#8 col row
  | .printChar ch => plainRequest 0x21#8 0#8 ch
  | .printStr str => stringRequest 0x22#8 str
  | .printLongStr str => stringRequest 0x23#8 str
  | .home => plainRequest 0x24#8 0#8 0#8
  | .clear => plainRequest 0x25#8 0#8 0#8
  | .nextLine => plainRequest 0x26#8 0#8 0#8
  | .createChar slot bitmap => .request (requestWord 0x30#8 0#8 slot) bitmap
  | .clearDisplay => commandTransfer clearDisplayByte
  | .returnHome x => commandTransfer (returnHomeByte x)
  | .entryModeSet i s => commandTransfer (entryModeSetByte i s)
  | .displayControl d c b => commandTransfer (displayControlByte d c b)
  | .cursorShift p r x => commandTransfer (cursorShiftByte p r x)
  | .functionSet l n f x => commandTransfer (functionSetByte l n f x)
  | .setCGRAMAddr a => commandTransfer (setCGRAMAddrByte a)
  | .setDDRAMAddr a => commandTransfer (setDDRAMAddrByte a)
  | .writeData d => dataTransfer d
  | .reserved00 => commandTransfer 0x00#8
  | .handshakeNibble3 => .nibble 0b00011#5
  | .handshakeNibble2 => .nibble 0b00010#5

end Sys2Proof
end

