-- ==== Sys2Proof/Machine/State.lean ====
section
/-! DEFINITION. The state of the block and of its ports as plain data (10_state.md), the reasons a step can stop
(60_exceptions.md R377) and the state after reset (70_reset_and_hazards.md R410, R411). -/

namespace Sys2Proof.Machine

/-- The sequencer's state register, the block's program counter: the twenty states of R37. Codes 19 to 30 name no state
("never reached", R37; U18 of 93_implementation_defined.md: a state holding one is stuck), so none is representable. -/
inductive Seq where
  | powerUp | assertLines | waitPwrA | waitPwrB | nib3a | wait3a | nib3b | wait3b | nib3c | wait3c | nib2
  | functionSet | displayControl | clear | clearWait | entryMode | returnHome | homeWait | ready | failed
  deriving DecidableEq, Repr

/-- The six logical lines of the DISCRETE bus (R72, R108). -/
inductive Line where
  | rs | e | d4 | d5 | d6 | d7
  deriving DecidableEq, Repr

/-- One bus write, the only indivisible unit (R80): an expander byte, written to an I2C address, or one line level
(R150). The spec writes `Byte(b)`; the address `I2C_ADDR` it goes to is kept beside it (log 7, DESIGN CHOICE, safe). -/
inductive BusWrite where
  | byte (addr : BitVec 7) (b : Byte)
  | line (l : Line) (v : Bool)
  deriving DecidableEq, Repr

/-- The observable events, one per bus or timing primitive (R10). -/
inductive Event where
  /-- A bus write the bus answered `Ok`: `Byte(b)` or `Line(l, v)`. -/
  | write (w : BusWrite)
  /-- `WaitUs(n)`: a blocking wait of at least `n` microseconds. -/
  | waitUs (n : Half)
  /-- `WaitMs(n)`: a blocking wait of at least `n` milliseconds. -/
  | waitMs (n : Half)
  /-- `Failed(e)`: the bus write `e` was answered `Fail`. -/
  | failed (w : BusWrite)
  deriving DecidableEq, Repr

/-- A part of the bus image: driven to a value, or UNKNOWN (R41). UNKNOWN is the spec's own value of it, with every
value admitted. -/
inductive Drive (α : Type) where
  | known (v : α)
  | unknown
  deriving DecidableEq, Repr

/-- The bus image: the block's output lines as the controller and the expander see them (R41). The block never reads
it. `outb` is driven on EXPANDER only, the six lines on DISCRETE only. -/
structure BusImage where
  /-- `OUTB`, the byte the expander drives. -/
  outb : Drive Byte
  /-- `LINES[RS]`. -/
  rs : Drive Bool
  /-- `LINES[E]`. -/
  e : Drive Bool
  /-- `LINES[D4]`. -/
  d4 : Drive Bool
  /-- `LINES[D5]`. -/
  d5 : Drive Bool
  /-- `LINES[D6]`. -/
  d6 : Drive Bool
  /-- `LINES[D7]`. -/
  d7 : Drive Bool
  deriving DecidableEq, Repr

/-- The bus image at reset: every part UNKNOWN (R41, decision D30). -/
def BusImage.allUnknown : BusImage where
  outb := .unknown
  rs := .unknown
  e := .unknown
  d4 := .unknown
  d5 := .unknown
  d6 := .unknown
  d7 := .unknown

/-- The response codes (R370). -/
inductive Code where
  | ok | rowOutOfBounds | unsupportedGeometry | slotOutOfBounds | unsupportedOnSingleRow | busWriteFailure
  | initializationFailed
  deriving DecidableEq, Repr

/-- What can happen next at the block's ports: a word arrives, or the power is lost (R12). A second request while one
runs, or one from interrupt context, is no move (R12, R377). -/
inductive Move where
  | issue (p : PortWord)
  | powerLoss
  deriving DecidableEq, Repr

/-- The reasons a step faults (R9 (c), R377). -/
inductive Fault where
  /-- Raised by SET_CURSOR where `col + rowOffset[row]` exceeds 0xFF (R281): the spec gives that case no value and
  faults. Safe: the model stops where the hardware goes on with some address. -/
  | addressOverflow
  deriving DecidableEq, Repr

/-- The reasons a step is refused (R9 (b), R377). A refused request produces no event and changes no state. -/
inductive Refusal where
  /-- Raised by an arm of `exec` whose instruction has no meaning yet. Safe: the model stops. -/
  | notModelled (mnemonic : String)
  /-- Raised by `step` on a port word that is no instruction (`IllegalRequest`, R104). Safe. -/
  | illegalRequest (why : Illegal)
  /-- Raised by INIT with `SEQ = READY` (`InitAfterReady`, R200). Safe. -/
  | initAfterReady
  /-- Raised by construction, and by `step` in a state no construction gives, where `CFG.COLS = 0`
  (`InvalidConfiguration`, R31). Safe. -/
  | invalidConfiguration
  deriving DecidableEq, Repr

/-- The state of the block (R30 to R41), of its ports (R12) and of the observation of the run (R10). -/
structure State where
  /-- The configuration registers `CFG.*` and the parameters (R30, R5, R6). No request writes them. -/
  cfg : Config
  /-- `BL`, the backlight latch: true is on (R34). -/
  bl : Bool
  /-- `DCTL`, the display-control shadow register: bit 2 `D`, bit 1 `C`, bit 0 `B` (R35). -/
  dctl : BitVec 3
  /-- `EMODE`, the entry-mode shadow register: bit 1 `ID`, bit 0 `S` (R36). -/
  emode : BitVec 2
  /-- `SEQ`, the sequencer's state register (R37). -/
  seq : Seq
  /-- `CURLINE`, the row the block believes the cursor is on (R39). -/
  curline : Byte
  /-- `XV`, working register: the value being sent (R33). -/
  xv : Byte
  /-- `XRS`, working register: the mode, false COMMAND, true DATA (R33). -/
  xrs : Bool
  /-- `NIB`, working register: the nibble being presented, in bits 7:4 (R33). -/
  nib : Byte
  /-- The bus image (R41). -/
  image : BusImage
  /-- The events the block has produced, oldest first (R10). -/
  trace : List Event
  /-- The response code of each request that has ended, oldest first (R10, R101). -/
  responses : List Code
  /-- What will happen at the ports, next first: the host issues one request at a time and the next only after the
  response (R12). The host's, not the block's: the block has no queue (R8). -/
  moves : List Move
  /-- The answers the bus oracle is going to give, next first; once they are used up the answers are
  `Config.freeAnswer` (R151, log 1). The model's own field. -/
  answers : List Answer
  /-- How many bus writes have been answered: the index of the next free answer (log 1). The model's own field. -/
  draws : Nat
  deriving DecidableEq, Repr

/-- The block right after construction with `c`: every register at its reset value, nothing written on the bus, nothing
observed (R44, R410, R411). The working registers, which the spec leaves unspecified, hold 0 (log 4, DESIGN CHOICE,
unsafe). -/
def State.resetOf (c : Config) : State where
  cfg := c
  bl := c.blInit
  dctl := 0b000#3
  emode := 0b00#2
  seq := .powerUp
  curline := 0#8
  xv := 0#8
  xrs := false
  nib := 0#8
  image := BusImage.allUnknown
  trace := []
  responses := []
  moves := []
  answers := []
  draws := 0

/-- The machine right after reset, constructed with `Config.standard`. -/
def State.reset : State := State.resetOf Config.standard

end Sys2Proof.Machine
end

