-- ==== Sys2Proof/Machine/Operands.lean ====
section
/-! DEFINITION. The operand forms: the nibble split and the expander byte (20_memory.md R75, 30_encoding.md R106,
R107), the row-offset table and the DDRAM address of a cursor operation (R73, R280), the CGRAM slot (R74), the
FunctionSet byte of INIT (R206) and the numbers of the codes (R37, R370). -/

namespace Sys2Proof.Machine

/-! ## Nibbles and the expander byte -/

/-- The RS level of a COMMAND transfer (R33, decision D9). -/
def rsCommand : Bool := false
/-- The RS level of a DATA transfer (R33, decision D9). -/
def rsData : Bool := true

/-- The high nibble, `value & 0xF0` (R75). -/
def highNibble (v : Byte) : Byte := v &&& 0xF0#8

/-- The low nibble, `(value << 4) & 0xF0` at 8 bits (R75). -/
def lowNibble (v : Byte) : Byte := (v <<< 4) &&& 0xF0#8

/-- `exb(NIB, XRS, e)` with the backlight latch `bl`: D7..D4, BL at bit 3, E at bit 2, RW = 0 at bit 1, RS at bit 0
(R106, R107). -/
def exb (bl : Bool) (nib : Byte) (rs e : Bool) : Byte :=
  (nib &&& 0xF0#8) ||| flagBit bl 3 ||| flagBit e 2 ||| flagBit rs 0

/-- The expander byte that carries the backlight bit alone: `BL << 3` (R161, R202). -/
def backlightByte (bl : Bool) : Byte := flagBit bl 3

/-! ## Cursor addresses -/

/-- The row-offset table of a row count; no entry outside 1, 2 and 4 (R73). -/
def rowOffsets (rows : Byte) : Option (List Nat) :=
  match rows.toNat with
  | 1 => some [0x00]
  | 2 => some [0x00, 0x40]
  | 4 => some [0x00, 0x40, 0x14, 0x54]
  | _ => none

/-- Why `set_cursor` makes no send, or the address sum it sends (the checks of R280 and R373, in their order). -/
inductive CursorTarget where
  /-- `row >= CFG.ROWS`. -/
  | rowOutOfBounds
  /-- `CFG.ROWS` has no row-offset mapping. -/
  | unsupportedGeometry
  /-- `col + rowOffset[row]` exceeds 0xFF (R281). -/
  | overflow
  /-- The sum `col + rowOffset[row]`, at most 0xFF. -/
  | address (addr : Byte)
  deriving DecidableEq, Repr

/-- The checks of `set_cursor` before its send (R280). The sum is a natural number. -/
def cursorTarget (c : Config) (col row : Byte) : CursorTarget :=
  if c.rows ≤ row then .rowOutOfBounds
  else
    match rowOffsets c.rows with
    | none => .unsupportedGeometry
    | some offsets =>
      if col.toNat + offsets.getD row.toNat 0 > 0xFF then .overflow
      else .address (BitVec.ofNat 8 (col.toNat + offsets.getD row.toNat 0))

/-- The command byte of a cursor address: `0x80 | addr`, an 8-bit OR that does not mask the address (R111, R280). -/
def setCursorCommand (addr : Byte) : Byte := 0x80#8 ||| addr

/-- The row PRINT_LONG_STR computes for index `i`: `i div COLS`, and 0 where that is at least `CFG.ROWS` (R284). -/
def wrapRow (c : Config) (i : Nat) : Byte :=
  if i / c.cols.toNat ≥ c.rows.toNat then 0#8 else BitVec.ofNat 8 (i / c.cols.toNat)

/-- Index `i` starts a later row segment: `i > 0` and `i mod COLS = 0` (R284). -/
def startsSegment (c : Config) (i : Nat) : Bool := 0 < i && i % c.cols.toNat == 0

/-- The row NEXT_LINE steps to: 0 where `CURLINE >= CFG.ROWS`, else `CURLINE + 1` (R287). -/
def nextRow (c : Config) (curline : Byte) : Byte :=
  if c.rows ≤ curline then 0#8 else curline + 1#8

/-! ## Other command operands -/

/-- The command byte of a CGRAM slot: `0x40 | (slot << 3)` (R74, R320). -/
def slotCommand (slot : Byte) : Byte := 0x40#8 ||| (slot <<< 3)

/-- INIT's FunctionSet byte: `0x20 | ((CFG.ROWS > 1 ? 1 : 0) << 3)` (R206). -/
def functionSetCommand (c : Config) : Byte := 0x20#8 ||| flagBit (1#8 < c.rows) 3

/-! ## Numbers -/

/-- The number of a response code (R370). -/
def codeNumber : Code → Byte
  | .ok => 0#8
  | .rowOutOfBounds => 1#8
  | .unsupportedGeometry => 2#8
  | .slotOutOfBounds => 3#8
  | .unsupportedOnSingleRow => 4#8
  | .busWriteFailure => 5#8
  | .initializationFailed => 6#8

/-- The encoding of the sequencer's state (R37). -/
def seqCode : Seq → BitVec 5
  | .powerUp => 0#5
  | .assertLines => 1#5
  | .waitPwrA => 2#5
  | .waitPwrB => 3#5
  | .nib3a => 4#5
  | .wait3a => 5#5
  | .nib3b => 6#5
  | .wait3b => 7#5
  | .nib3c => 8#5
  | .wait3c => 9#5
  | .nib2 => 10#5
  | .functionSet => 11#5
  | .displayControl => 12#5
  | .clear => 13#5
  | .clearWait => 14#5
  | .entryMode => 15#5
  | .returnHome => 16#5
  | .homeWait => 17#5
  | .ready => 18#5
  | .failed => 31#5

end Sys2Proof.Machine
end

