-- ==== Sys2Proof/Machine/Ops.lean ====
section
/-! DEFINITION. The named operations every meaning is written over: register writes, the bus and timing primitives
(40_protocol_engine.md R150 to R153), the enable pulse, the nibble transaction and the send (R154 to R158), ending a
request with OK or an error (60_exceptions.md R370, R375), construction and power loss (R410, R412). -/

namespace Sys2Proof.Machine

/-! ## Register writes -/

/-- `x[BL] <- v`. -/
def State.setBl (s : State) (v : Bool) : State := { s with bl := v }
/-- `x[DCTL] <- v`. -/
def State.setDctl (s : State) (v : BitVec 3) : State := { s with dctl := v }
/-- `x[EMODE] <- v`. -/
def State.setEmode (s : State) (v : BitVec 2) : State := { s with emode := v }
/-- `seq <- v`. -/
def State.setSeq (s : State) (v : Seq) : State := { s with seq := v }
/-- `x[CURLINE] <- v`. -/
def State.setCurline (s : State) (v : Byte) : State := { s with curline := v }
/-- `XV <- v`, a working register (R33). -/
def State.setXv (s : State) (v : Byte) : State := { s with xv := v }
/-- `XRS <- rs` and `NIB <- nib`, the working registers of one nibble transaction (R33). -/
def State.setNibble (s : State) (nib : Byte) (rs : Bool) : State := { s with nib := nib, xrs := rs }
/-- The bus image takes a new value (R41). -/
def State.setImage (s : State) (v : BusImage) : State := { s with image := v }
/-- Append one event to the observation (R10). -/
def State.emit (s : State) (e : Event) : State := { s with trace := s.trace ++ [e] }
/-- Append the response code of a request that has ended (R101, R370). -/
def State.respond (s : State) (c : Code) : State := { s with responses := s.responses ++ [c] }
/-- Take one answer off the list of answers to come; the draw is counted (R151). -/
def State.takeAnswer (s : State) : State := { s with answers := s.answers.tail, draws := s.draws + 1 }
/-- What is left of the moves once the next one has been taken (R12). -/
def State.setMoves (s : State) (ms : List Move) : State := { s with moves := ms }

/-! ## The bus image -/

/-- Set the part of the image a bus write targets (R41). -/
def BusImage.put (m : BusImage) (w : BusWrite) (known : Bool) : BusImage :=
  match w with
  | .byte _ b => { m with outb := if known then .known b else .unknown }
  | .line .rs v => { m with rs := if known then .known v else .unknown }
  | .line .e v => { m with e := if known then .known v else .unknown }
  | .line .d4 v => { m with d4 := if known then .known v else .unknown }
  | .line .d5 v => { m with d5 := if known then .known v else .unknown }
  | .line .d6 v => { m with d6 := if known then .known v else .unknown }
  | .line .d7 v => { m with d7 := if known then .known v else .unknown }

/-- The image after one event: a successful write drives its target, a failed one leaves it UNKNOWN, a wait changes
nothing (R41, R152). -/
def imageAfter (m : BusImage) : Event → BusImage
  | .write w => m.put w true
  | .failed w => m.put w false
  | .waitUs _ => m
  | .waitMs _ => m

/-! ## Running a part of a request -/

/-- Where a part of a request has come to: the state, and OK so far or the error that ended it (R9 (a), R373). -/
structure Run where
  st : State
  code : Code
  deriving DecidableEq, Repr

/-- The part went through. -/
def Run.ok (s : State) : Run := ⟨s, .ok⟩

/-- `raise c`: the request ends at once; what it has done stays (R14, R375). -/
def Run.raise (s : State) (c : Code) : Run := ⟨s, c⟩

/-- Go on with `f` unless an error has ended the request (R166, R373). -/
def Run.andThen (r : Run) (f : State → Run) : Run := if r.code = .ok then f r.st else r

/-- End a request: its response code is handed to the host and the block is idle again (R370, R376). -/
def reply (r : Run) : Host.Outcome State Fault Refusal := .next (r.st.respond r.code)

/-! ## Bus and timing primitives -/

/-- The bus oracle's answer to the next bus write (R151). -/
def State.answer (s : State) : Answer := s.answers.headD (Config.freeAnswer s.draws)

/-- `try` one bus write: on `Ok` its event, on `Fail` the event `Failed` and the error `BUS_WRITE_FAILURE`
(R14, R150 to R152). -/
def busWrite (w : BusWrite) (s : State) : Run :=
  match s.answer with
  | .ok => .ok (((s.takeAnswer).emit (.write w)).setImage (imageAfter s.image (.write w)))
  | .fail => .raise (((s.takeAnswer).emit (.failed w)).setImage (imageAfter s.image (.failed w))) .busWriteFailure

/-- One primitive of a bus program: a bus write or a wait (R14). -/
inductive Prim where
  | write (w : BusWrite)
  | waitUs (n : Half)
  | waitMs (n : Half)
  deriving DecidableEq, Repr

/-- Run primitives in order; the first failed write ends it (R84, R152). A wait always completes (R153). -/
def drive : List Prim → State → Run
  | [], s => .ok s
  | .write w :: ps, s => (busWrite w s).andThen (drive ps)
  | .waitUs n :: ps, s => drive ps (s.emit (.waitUs n))
  | .waitMs n :: ps, s => drive ps (s.emit (.waitMs n))

/-! ## Enable pulse, nibble transaction, send -/

/-- `MemWrite(I2C_ADDR, 1, b)` (R150). -/
def memWrite (c : Config) (b : Byte) : Prim := .write (.byte c.i2cAddr b)

/-- `LineWrite(l, v)` (R150). -/
def lineWrite (l : Line) (v : Bool) : Prim := .write (.line l v)

/-- The enable pulse of the EXPANDER variant (R154). -/
def pulseExpander (c : Config) (bl : Bool) (nib : Byte) (rs : Bool) : List Prim :=
  [memWrite c (exb bl nib rs true), .waitUs c.tEnHighUs,
   memWrite c (exb bl nib rs false), .waitUs c.tEnSettleUs]

/-- The enable pulse of the DISCRETE variant: only E changes (R155). -/
def pulseDiscrete (c : Config) : List Prim :=
  [lineWrite .e true, .waitUs c.tEnHighUs, lineWrite .e false, .waitUs c.tEnSettleUs]

/-- Present one nibble and pulse Enable once (R156). -/
def nibblePrims (c : Config) (bl : Bool) (nib : Byte) (rs : Bool) : List Prim :=
  match c.variant with
  | .expander => memWrite c (exb bl nib rs false) :: pulseExpander c bl nib rs
  | .discrete =>
    [lineWrite .rs rs, lineWrite .d4 nib[4], lineWrite .d5 nib[5], lineWrite .d6 nib[6], lineWrite .d7 nib[7]]
      ++ pulseDiscrete c

/-- The nibble transaction (R156). -/
def nibbleTx (nib : Byte) (rs : Bool) (s : State) : Run :=
  drive (nibblePrims s.cfg s.bl nib rs) (s.setNibble nib rs)

/-- `send(v, rs)`: the high nibble, then the low nibble (R158). -/
def send (v : Byte) (rs : Bool) (s : State) : Run :=
  (nibbleTx (highNibble v) rs (s.setXv v)).andThen (nibbleTx (lowNibble v) rs)

/-- One DATA send for each byte, in order; the first failing send ends it (R77, R166). -/
def sendData : List Byte → State → Run
  | [], s => .ok s
  | v :: vs, s => (send v rsData s).andThen (sendData vs)

/-- A wait in milliseconds by itself (R153). -/
def waitMs (n : Half) (s : State) : Run := drive [.waitMs n] s

/-- A wait in microseconds by itself (R153). -/
def waitUs (n : Half) (s : State) : Run := drive [.waitUs n] s

/-- ClearDisplay with the wait the block keeps after it (R331). -/
def clearAndWait (s : State) : Run := (send clearDisplayByte rsCommand s).andThen fun t => waitMs t.cfg.tClearMs t

/-- ReturnHome with the wait the block keeps after it (R332). -/
def homeAndWait (x : BitVec 1) (s : State) : Run :=
  (send (returnHomeByte x) rsCommand s).andThen fun t => waitMs t.cfg.tHomeMs t

/-! ## Construction and power loss -/

/-- Construction: a configuration with `CFG.COLS = 0` is refused, every other gives the reset state (R31, R410). -/
def construct (c : Config) : Host.Outcome State Fault Refusal :=
  if c.cols = 0#8 then .refused .invalidConfiguration else .next (State.resetOf c)

/-- Power loss: the reset state with the same configuration (R412). The observation of the run and what the
environment will still do are not the block's and stay. -/
def powerLoss (s : State) : State :=
  { State.resetOf s.cfg with
    trace := s.trace
    responses := s.responses
    moves := s.moves
    answers := s.answers
    draws := s.draws }

end Sys2Proof.Machine
end

