-- ==== Sys2Proof/Machine/Command.lean ====
section
/-! DEFINITION. The controller commands the block transmits, each as its own row of the opcode table
(48_controller_commands.md R330 to R342): the transfer of R158, then the wait the block keeps after that command.
A byte sent raw, without the wait, is SENDC (R331). No command writes a register of the block by itself; what CLEAR,
INIT and the display-state requests write stands with them (log 8). A failed bus write is `BUS_WRITE_FAILURE`: only
inside INIT it is `INITIALIZATION_FAILED` (R152, R370). -/

namespace Sys2Proof.Machine

/-- ClearDisplay, then `WaitMs(T_CLEAR_MS)` (R331). -/
def execClearDisplay (s : State) : Host.Outcome State Fault Refusal := reply (clearAndWait s)

/-- ReturnHome, its ignored bit as given, then `WaitMs(T_HOME_MS)` (R332). -/
def execReturnHome (x : BitVec 1) (s : State) : Host.Outcome State Fault Refusal := reply (homeAndWait x s)

/-- EntryModeSet (R333): only the nibble settle times follow. -/
def execEntryModeSet (i sh : Bool) (s : State) : Host.Outcome State Fault Refusal :=
  reply (send (entryModeSetByte i sh) rsCommand s)

/-- DisplayControl (R334). -/
def execDisplayControl (d c b : Bool) (s : State) : Host.Outcome State Fault Refusal :=
  reply (send (displayControlByte d c b) rsCommand s)

/-- CursorShift (R335): no request composes it; the ignored bits go out as given. -/
def execCursorShift (p r : Bool) (x : BitVec 2) (s : State) : Host.Outcome State Fault Refusal :=
  reply (send (cursorShiftByte p r x) rsCommand s)

/-- FunctionSet (R336): transmitted unchanged, with an 8-bit interface or a 5×10 font too (R113 (d)). -/
def execFunctionSet (l n f : Bool) (x : BitVec 2) (s : State) : Host.Outcome State Fault Refusal :=
  reply (send (functionSetByte l n f x) rsCommand s)

/-- SetCGRAMAddr (R337). -/
def execSetCGRAMAddr (a : BitVec 6) (s : State) : Host.Outcome State Fault Refusal :=
  reply (send (setCGRAMAddrByte a) rsCommand s)

/-- SetDDRAMAddr (R338). -/
def execSetDDRAMAddr (a : BitVec 7) (s : State) : Host.Outcome State Fault Refusal :=
  reply (send (setDDRAMAddrByte a) rsCommand s)

/-- WriteData (R339): RS = 1, any byte. -/
def execWriteData (d : Byte) (s : State) : Host.Outcome State Fault Refusal := reply (send d rsData s)

/-- The byte 0x00 with RS = 0: transmitted unchanged (R342). -/
def execReserved00 (s : State) : Host.Outcome State Fault Refusal := reply (send 0x00#8 rsCommand s)

/-- Handshake nibble 0x3: one nibble transaction with `NIB = 0x30`, RS = 0, then `WaitUs(T_INIT3_US)` (R340). -/
def execHandshakeNibble3 (s : State) : Host.Outcome State Fault Refusal :=
  reply ((nibbleTx 0x30#8 rsCommand s).andThen fun t => waitUs t.cfg.tInit3Us t)

/-- Handshake nibble 0x2: one nibble transaction with `NIB = 0x20`, RS = 0, no further wait (R341). -/
def execHandshakeNibble2 (s : State) : Host.Outcome State Fault Refusal := reply (nibbleTx 0x20#8 rsCommand s)

end Sys2Proof.Machine
end

