-- ==== Sys2Proof/Machine/Flags.lean ====
section
/-! DEFINITION. The block's flags: the fields of `DCTL` and `EMODE` (10_state.md R35, R36, R40), how the display-state
requests set and clear one of them, and the commands composed from the two registers (42_display_state.md R250).
The block has no arithmetic condition codes (R40). -/

namespace Sys2Proof.Machine

/-! ## `DCTL` -/

/-- `DISPLAY_ON`, bit 2 of `DCTL` (R35). -/
def displayMask : BitVec 3 := 0b100#3
/-- `CURSOR_ON`, bit 1 of `DCTL` (R35). -/
def cursorMask : BitVec 3 := 0b010#3
/-- `BLINK_ON`, bit 0 of `DCTL` (R35). -/
def blinkMask : BitVec 3 := 0b001#3

/-- `on ? (DCTL | mask) : (DCTL & ~mask)`, at 3 bits (R250). -/
def dctlWith (mask : BitVec 3) (on : Bool) (dctl : BitVec 3) : BitVec 3 :=
  if on then dctl ||| mask else dctl &&& ~~~mask

/-- The DisplayControl command of a `DCTL` value: `0x08 | zext_8(DCTL)` (R35, R334). -/
def displayControlCommand (dctl : BitVec 3) : Byte := 0x08#8 ||| dctl.setWidth 8

/-! ## `EMODE` -/

/-- `ENTRY_LEFT`, bit 1 of `EMODE` (R36). -/
def entryLeftMask : BitVec 2 := 0b10#2
/-- `SHIFT_INCREMENT`, bit 0 of `EMODE` (R36). -/
def shiftIncrementMask : BitVec 2 := 0b01#2

/-- `on ? (EMODE | mask) : (EMODE & ~mask)`, at 2 bits (R250). -/
def emodeWith (mask : BitVec 2) (on : Bool) (emode : BitVec 2) : BitVec 2 :=
  if on then emode ||| mask else emode &&& ~~~mask

/-- The EntryModeSet command of an `EMODE` value: `0x04 | zext_8(EMODE)` (R36, R333). -/
def entryModeCommand (emode : BitVec 2) : Byte := 0x04#8 ||| emode.setWidth 8

/-! ## What INIT leaves (R207, R209) -/

/-- Display on, cursor off, blink off (R207). -/
def initDctl : BitVec 3 := 0b100#3
/-- Entry left, no shift (R209). -/
def initEmode : BitVec 2 := 0b10#2

end Sys2Proof.Machine
end

