-- ==== Sys2Proof/Machine/Display.lean ====
section
/-! DEFINITION. The display-state requests (42_display_state.md R250 to R256): one bit of a shadow register changes,
then the whole command is sent. The register is written before the send and keeps its value if the send fails. -/

namespace Sys2Proof.Machine

/-- `dctl_set(mask, on)` (R250). -/
def dctlSet (mask : BitVec 3) (on : Bool) (s : State) : Run :=
  send (displayControlCommand (dctlWith mask on s.dctl)) rsCommand (s.setDctl (dctlWith mask on s.dctl))

/-- `emode_set(mask, on)` (R250). -/
def emodeSet (mask : BitVec 2) (on : Bool) (s : State) : Run :=
  send (entryModeCommand (emodeWith mask on s.emode)) rsCommand (s.setEmode (emodeWith mask on s.emode))

/-- DISPLAY on (R251). -/
def execDisplay (on : Bool) (s : State) : Host.Outcome State Fault Refusal := reply (dctlSet displayMask on s)

/-- CURSOR on (R252). -/
def execCursor (on : Bool) (s : State) : Host.Outcome State Fault Refusal := reply (dctlSet cursorMask on s)

/-- BLINK on (R253). -/
def execBlink (on : Bool) (s : State) : Host.Outcome State Fault Refusal := reply (dctlSet blinkMask on s)

/-- AUTOSCROLL on (R254). -/
def execAutoscroll (on : Bool) (s : State) : Host.Outcome State Fault Refusal :=
  reply (emodeSet shiftIncrementMask on s)

/-- LEFT_TO_RIGHT (R255). -/
def execLeftToRight (s : State) : Host.Outcome State Fault Refusal := reply (emodeSet entryLeftMask true s)

/-- RIGHT_TO_LEFT (R256). -/
def execRightToLeft (s : State) : Host.Outcome State Fault Refusal := reply (emodeSet entryLeftMask false s)

end Sys2Proof.Machine
end

