-- ==== Sys2Proof/Machine/Engine.lean ====
section
/-! DEFINITION. The block's own requests: SENDC, SENDD, BACKLIGHT, DELAY_MS and DELAY_US (40_protocol_engine.md R158 to
R163). None of them reads `SEQ` (R165). -/

namespace Sys2Proof.Machine

/-- SENDC value (R158): every byte is sent unchanged. -/
def execSendc (value : Byte) (s : State) : Host.Outcome State Fault Refusal := reply (send value rsCommand s)

/-- SENDD value (R159). -/
def execSendd (value : Byte) (s : State) : Host.Outcome State Fault Refusal := reply (send value rsData s)

/-- The bus writes of BACKLIGHT: one byte on EXPANDER, none on DISCRETE (R161). -/
def backlightPrims (c : Config) (on : Bool) : List Prim :=
  match c.variant with
  | .expander => [memWrite c (backlightByte on)]
  | .discrete => []

/-- BACKLIGHT on (R161): the register is written before the bus. -/
def execBacklight (on : Bool) (s : State) : Host.Outcome State Fault Refusal :=
  reply (drive (backlightPrims s.cfg on) (s.setBl on))

/-- DELAY_MS n (R162): `n = 0` waits too. -/
def execDelayMs (n : Half) (s : State) : Host.Outcome State Fault Refusal := reply (waitMs n s)

/-- DELAY_US n (R163). -/
def execDelayUs (n : Half) (s : State) : Host.Outcome State Fault Refusal := reply (waitUs n s)

end Sys2Proof.Machine
end

