-- ==== Sys2Proof/Machine/Glyph.lean ====
section
/-! DEFINITION. The custom-character request (44_custom_char.md R320). -/

namespace Sys2Proof.Machine

/-- CREATE_CHAR slot, bitmap (R320): the slot is checked before any bus write; the bitmap bytes go out unmasked. -/
def execCreateChar (slot : Byte) (bitmap : List Byte) (s : State) : Host.Outcome State Fault Refusal :=
  if 7#8 < slot then reply (.raise s .slotOutOfBounds)
  else reply ((send (slotCommand slot) rsCommand s).andThen (sendData bitmap))

end Sys2Proof.Machine
end

