-- ==== Sys2Proof/Machine/Sequencer.lean ====
section
/-! DEFINITION. The initialization sequencer and its request INIT (41_init_sequencer.md R200 to R215). -/

namespace Sys2Proof.Machine

/-- The states INIT runs through, in the order of R201 and R213. -/
def initOrder : List Seq :=
  [.assertLines, .waitPwrA, .waitPwrB, .nib3a, .wait3a, .nib3b, .wait3b, .nib3c, .wait3c, .nib2, .functionSet,
   .displayControl, .clear, .clearWait, .entryMode, .returnHome, .homeWait]

/-- The initial backlight and line state (R202). -/
def assertPrims (c : Config) (bl : Bool) : List Prim :=
  match c.variant with
  | .expander => [memWrite c (backlightByte bl)]
  | .discrete =>
    [lineWrite .rs false, lineWrite .e false, lineWrite .d4 false, lineWrite .d5 false, lineWrite .d6 false,
     lineWrite .d7 false]

/-- The action of one sequencer state (the table of R201). POWER_UP, READY and FAILED have none. -/
def initAction (q : Seq) (s : State) : Run :=
  match q with
  | .powerUp => .ok s
  | .assertLines => drive (assertPrims s.cfg s.bl) s
  | .waitPwrA => waitMs s.cfg.tPwrAMs s
  | .waitPwrB => waitMs s.cfg.tPwrBMs s
  | .nib3a => nibbleTx 0x30#8 rsCommand s
  | .wait3a => waitUs s.cfg.tInit3Us s
  | .nib3b => nibbleTx 0x30#8 rsCommand s
  | .wait3b => waitUs s.cfg.tInit3Us s
  | .nib3c => nibbleTx 0x30#8 rsCommand s
  | .wait3c => waitUs s.cfg.tInit3Us s
  | .nib2 => nibbleTx 0x20#8 rsCommand s
  | .functionSet => send (functionSetCommand s.cfg) rsCommand s
  | .displayControl => send (displayControlCommand initDctl) rsCommand (s.setDctl initDctl)
  | .clear => send clearDisplayByte rsCommand s
  | .clearWait => (waitMs s.cfg.tClearMs s).andThen fun t => .ok (t.setCurline 0#8)
  | .entryMode => send (entryModeCommand initEmode) rsCommand (s.setEmode initEmode)
  | .returnHome => send (returnHomeByte 0#1) rsCommand s
  | .homeWait => waitMs s.cfg.tHomeMs s
  | .ready => .ok s
  | .failed => .ok s

/-- Run sequencer states in order and end in READY; a bus failure in any of them ends the sequence in FAILED with
`INITIALIZATION_FAILED` (R211, R212). No state is repeated and none is resumed (R215). -/
def runSequencer : List Seq → State → Run
  | [], s => .ok (s.setSeq .ready)
  | q :: qs, s =>
    if (initAction q (s.setSeq q)).code = .ok then runSequencer qs (initAction q (s.setSeq q)).st
    else .raise ((initAction q (s.setSeq q)).st.setSeq .failed) .initializationFailed

/-- INIT (R200, R213): refused in READY, otherwise the whole sequence from ASSERT_LINES. -/
def execInit (s : State) : Host.Outcome State Fault Refusal :=
  if s.seq = .ready then .refused .initAfterReady else reply (runSequencer initOrder s)

end Sys2Proof.Machine
end

