-- ==== Sys2Proof/Machine/Text.lean ====
section
/-! DEFINITION. The text-layout requests (43_text_layout.md R280 to R287). -/

namespace Sys2Proof.Machine

/-- `set_cursor(col, row)` where the address sum fits (R280): two argument checks without any bus write, then the send,
then `CURLINE`. On an overflowing sum it does nothing: SET_CURSOR faults before it comes here, and with `col = 0`, as
PRINT_LONG_STR and NEXT_LINE call it, no sum overflows (R373, Laws `cursorTarget_zero_fits`). -/
def setCursor (col row : Byte) (s : State) : Run :=
  match cursorTarget s.cfg col row with
  | .rowOutOfBounds => .raise s .rowOutOfBounds
  | .unsupportedGeometry => .raise s .unsupportedGeometry
  | .overflow => .ok s
  | .address addr => (send (setCursorCommand addr) rsCommand s).andThen fun t => .ok (t.setCurline row)

/-- SET_CURSOR col, row (R280); the address overflow faults (R281). -/
def execSetCursor (col row : Byte) (s : State) : Host.Outcome State Fault Refusal :=
  if cursorTarget s.cfg col row = .overflow then .fault .addressOverflow else reply (setCursor col row s)

/-- PRINT_CHAR ch (R282): one DATA byte; no register is written. -/
def execPrintChar (ch : Byte) (s : State) : Host.Outcome State Fault Refusal := reply (send ch rsData s)

/-- PRINT_STR (R283): one DATA byte a character, no wrapping. -/
def execPrintStr (str : List Byte) (s : State) : Host.Outcome State Fault Refusal := reply (sendData str s)

/-- The loop of PRINT_LONG_STR from index `i` (R284): the cursor is set at the start of each later row segment. -/
def printLongFrom : Nat → List Byte → State → Run
  | _, [], s => .ok s
  | i, ch :: rest, s =>
    (if startsSegment s.cfg i then setCursor 0#8 (wrapRow s.cfg i) s else .ok s).andThen fun t =>
      (send ch rsData t).andThen (printLongFrom (i + 1) rest)

/-- PRINT_LONG_STR (R284): the cursor goes to (0, 0) first, for the empty string too. -/
def execPrintLongStr (str : List Byte) (s : State) : Host.Outcome State Fault Refusal :=
  reply ((setCursor 0#8 0#8 s).andThen (printLongFrom 0 str))

/-- HOME (R285): `CURLINE` keeps its value. -/
def execHome (s : State) : Host.Outcome State Fault Refusal := reply (homeAndWait 0#1 s)

/-- CLEAR (R286): `CURLINE <- 0` after the wait, and only if the send succeeded. -/
def execClear (s : State) : Host.Outcome State Fault Refusal :=
  reply ((clearAndWait s).andThen fun t => .ok (t.setCurline 0#8))

/-- NEXT_LINE (R287): the wrap test is `CURLINE >= CFG.ROWS`, and the new `CURLINE` stays when `set_cursor` fails. -/
def execNextLine (s : State) : Host.Outcome State Fault Refusal :=
  if s.cfg.rows = 1#8 then reply (.raise s .unsupportedOnSingleRow)
  else reply (setCursor 0#8 (nextRow s.cfg s.curline) (s.setCurline (nextRow s.cfg s.curline)))

end Sys2Proof.Machine
end

