-- ==== Sys2Proof/Machine/Dispatch.lean ====
section
/-! DEFINITION. One arm per constructor of `Instr`, each one direct call of its meaning. -/

namespace Sys2Proof.Machine

def exec (i : Instr) (s : State) : Host.Outcome State Fault Refusal :=
  match i with
  -- the block's own requests (R158 to R163, R200)
  | .init => Sys2Proof.Machine.execInit s
  | .sendc value => Sys2Proof.Machine.execSendc value s
  | .sendd value => Sys2Proof.Machine.execSendd value s
  | .backlight on => Sys2Proof.Machine.execBacklight on s
  | .delayMs n => Sys2Proof.Machine.execDelayMs n s
  | .delayUs n => Sys2Proof.Machine.execDelayUs n s
  -- display state (R251 to R256)
  | .display on => Sys2Proof.Machine.execDisplay on s
  | .cursor on => Sys2Proof.Machine.execCursor on s
  | .blink on => Sys2Proof.Machine.execBlink on s
  | .autoscroll on => Sys2Proof.Machine.execAutoscroll on s
  | .leftToRight => Sys2Proof.Machine.execLeftToRight s
  | .rightToLeft => Sys2Proof.Machine.execRightToLeft s
  -- text layout (R280 to R287) and custom characters (R320)
  | .setCursor col row => Sys2Proof.Machine.execSetCursor col row s
  | .printChar ch => Sys2Proof.Machine.execPrintChar ch s
  | .printStr str => Sys2Proof.Machine.execPrintStr str s
  | .printLongStr str => Sys2Proof.Machine.execPrintLongStr str s
  | .home => Sys2Proof.Machine.execHome s
  | .clear => Sys2Proof.Machine.execClear s
  | .nextLine => Sys2Proof.Machine.execNextLine s
  | .createChar slot bitmap => Sys2Proof.Machine.execCreateChar slot bitmap s
  -- controller commands (R331 to R339, R342) and handshake nibbles (R340, R341)
  | .clearDisplay => Sys2Proof.Machine.execClearDisplay s
  | .returnHome x => Sys2Proof.Machine.execReturnHome x s
  | .entryModeSet e sh => Sys2Proof.Machine.execEntryModeSet e sh s
  | .displayControl d c b => Sys2Proof.Machine.execDisplayControl d c b s
  | .cursorShift p r x => Sys2Proof.Machine.execCursorShift p r x s
  | .functionSet l n f x => Sys2Proof.Machine.execFunctionSet l n f x s
  | .setCGRAMAddr a => Sys2Proof.Machine.execSetCGRAMAddr a s
  | .setDDRAMAddr a => Sys2Proof.Machine.execSetDDRAMAddr a s
  | .writeData d => Sys2Proof.Machine.execWriteData d s
  | .reserved00 => Sys2Proof.Machine.execReserved00 s
  | .handshakeNibble3 => Sys2Proof.Machine.execHandshakeNibble3 s
  | .handshakeNibble2 => Sys2Proof.Machine.execHandshakeNibble2 s

end Sys2Proof.Machine
end

