-- ==== Sys2Proof/Machine/Fetch.lean ====
section
/-! DEFINITION. What arrives at the block's ports (00_scope.md R9, R12). The block fetches nothing from a memory
(20_memory.md R87): the next instruction is the next port word of the moves. -/

namespace Sys2Proof.Machine

/-- What the next step is going to do. -/
inductive Arrival where
  /-- Nothing is issued: the block stays idle, holding its registers (R386, R410). -/
  | idle
  /-- The power is lost: the state after it (R412). -/
  | lost (t : State)
  /-- The step is refused (R9 (b)). -/
  | refuse (why : Refusal)
  /-- The block runs `i` in `t`, where the word has been taken (R9 (a)). -/
  | run (i : Instr) (t : State)
  deriving DecidableEq, Repr

/-- A port word: decoded, or refused as `IllegalRequest` before any check of the request itself (R104, R374). -/
def arrivalOf (p : PortWord) (t : State) : Arrival :=
  match decode p with
  | .ok i => .run i t
  | .error why => .refuse (.illegalRequest why)

/-- The next move. A state with `CFG.COLS = 0` is given by no construction and takes no move (R31). -/
def arrive (s : State) : Arrival :=
  if s.cfg.cols = 0#8 then .refuse .invalidConfiguration
  else
    match s.moves with
    | [] => .idle
    | .powerLoss :: ms => .lost (powerLoss (s.setMoves ms))
    | .issue p :: ms => arrivalOf p (s.setMoves ms)

/-- The state with an opcode-table word as the very next move. -/
def placeWord (s : State) (nbits w : Nat) : State := s.setMoves (.issue (tablePort nbits w) :: s.moves)

end Sys2Proof.Machine
end

