-- ==== Sys2Proof/Machine/Step.lean ====
section
/-! DEFINITION. One step: the next move at the ports, one request run to completion (00_scope.md R9). -/

namespace Sys2Proof.Machine

/-- One step of the block (R9). With no request issued it stays as it is (R11: a run ends when the host issues no
further request). -/
def step (s : State) : Host.Outcome State Fault Refusal :=
  match arrive s with
  | .idle => .next s
  | .lost t => .next t
  | .refuse why => .refused why
  | .run i t => exec i t

/-- `s` with the instruction of an opcode-table word as its next move, which the very next step runs (log 9). -/
def State.withFetchWord (s : State) (nbits w : Nat) : State := placeWord s nbits w

end Sys2Proof.Machine
end

