-- ==== Sys2Proof/Machine/Asm.lean ====
section
/-! DEFINITION. The assembler of 30_encoding.md R115 and R116: one line of text to one request. -/

namespace Sys2Proof.Machine

/-! ## Tokens -/

/-- A token of an assembler line. -/
inductive Token where
  /-- A mnemonic, a symbolic constant or a send mode. -/
  | word (w : List Char)
  /-- A number or a character literal. -/
  | num (n : Nat)
  /-- A string in double quotes, as bytes. -/
  | str (s : List Byte)
  | comma
  | bar
  deriving DecidableEq, Repr

/-- The value of a digit character, 0 to 15. -/
def digitValue (c : Char) : Option Nat :=
  if '0' ≤ c ∧ c ≤ '9' then some (c.toNat - 48)
  else if 'a' ≤ c ∧ c ≤ 'f' then some (c.toNat - 87)
  else if 'A' ≤ c ∧ c ≤ 'F' then some (c.toNat - 55)
  else none

/-- Digits in a base, most significant first; refused where one is no digit of the base. -/
def digits (base : Nat) : Nat → List Char → Option Nat
  | acc, [] => some acc
  | acc, c :: cs =>
    match digitValue c with
    | some d => if d < base then digits base (base * acc + d) cs else none
    | none => none

/-- A number: decimal, `0x` hexadecimal or `0b` binary (R115). -/
def numberOf : List Char → Option Nat
  | '0' :: 'x' :: c :: cs => digits 16 0 (c :: cs)
  | '0' :: 'b' :: c :: cs => digits 2 0 (c :: cs)
  | c :: cs => digits 10 0 (c :: cs)
  | [] => none

/-- A character of a mnemonic, a constant or a number. -/
def isWordChar (c : Char) : Bool := c.isAlphanum || c == '_'

/-- The bytes of a string up to its closing quote (code 34), with the escapes of R115 after a backslash (code 92):
`xNN` for any byte, a backslash and a quote; and the rest of the line. -/
def stringOf : List Char → Option (List Byte × List Char)
  | [] => none
  | c :: cs =>
    if c.toNat = 34 then some ([], cs)
    else if c.toNat = 92 then
      match cs with
      | 'x' :: h :: l :: rest =>
        match digits 16 0 [h, l] with
        | some n => (stringOf rest).map fun r => (BitVec.ofNat 8 n :: r.1, r.2)
        | none => none
      | e :: rest =>
        if e.toNat = 92 ∨ e.toNat = 34 then (stringOf rest).map fun r => (BitVec.ofNat 8 e.toNat :: r.1, r.2)
        else none
      | [] => none
    else if c.toNat < 256 then (stringOf cs).map fun r => (BitVec.ofNat 8 c.toNat :: r.1, r.2)
    else none

/-- The tokens of a line. `fuel` is at least its length: every round takes a character. -/
def tokens : Nat → List Char → Option (List Token)
  | _, [] => some []
  | 0, _ :: _ => none
  | fuel + 1, c :: cs =>
    if c = ' ' then tokens fuel cs
    else if c = ',' then (tokens fuel cs).map (.comma :: ·)
    else if c = '|' then (tokens fuel cs).map (.bar :: ·)
    else if c.toNat = 34 then
      match stringOf cs with
      | some (s, rest) => (tokens fuel rest).map (.str s :: ·)
      | none => none
    else if c.toNat = 39 then
      match cs with
      | ch :: q :: rest =>
        if q.toNat = 39 ∧ ch.toNat < 256 then (tokens fuel rest).map (.num ch.toNat :: ·) else none
      | _ => none
    else if c.isDigit then
      match numberOf (c :: cs.takeWhile isWordChar) with
      | some n => (tokens fuel (cs.dropWhile isWordChar)).map (.num n :: ·)
      | none => none
    else if isWordChar c then
      (tokens fuel (cs.dropWhile isWordChar)).map (.word (c :: cs.takeWhile isWordChar) :: ·)
    else none

/-! ## Operands -/

/-- An operand: a number, a string, or the mode of the SEND pseudo-instruction. -/
inductive Arg where
  | num (n : Nat)
  | str (s : List Byte)
  | mode (data : Bool)
  deriving DecidableEq, Repr

/-- The symbolic constants of R116: the document's opcodes, then the flag constants. -/
def symbols : List (List Char × Nat) :=
  [("CLEARDISPLAY".toList, 0x01), ("RETURNHOME".toList, 0x02), ("ENTRYMODESET".toList, 0x04),
   ("DISPLAYCONTROL".toList, 0x08), ("CURSORSHIFT".toList, 0x10), ("FUNCTIONSET".toList, 0x20),
   ("SETCGRAMADDR".toList, 0x40), ("SETDDRAMADDR".toList, 0x80), ("ENTRY_LEFT".toList, 0x02),
   ("SHIFT_INCREMENT".toList, 0x01), ("DISPLAY_ON".toList, 0x04), ("CURSOR_ON".toList, 0x02),
   ("BLINK_ON".toList, 0x01), ("TWO_LINE".toList, 0x08)]

/-- The value of one token of an operand. -/
def atomOf : Token → Option Nat
  | .num n => some n
  | .word w => (symbols.find? fun p => p.1 == w).map Prod.snd
  | _ => none

/-- Atoms with `|` between them, combined by bitwise OR (R116). -/
def orOf : List Token → Option Nat
  | [t] => atomOf t
  | t :: .bar :: rest =>
    match atomOf t, orOf rest with
    | some a, some b => some (a ||| b)
    | _, _ => none
  | _ => none

/-- One operand. -/
def argOf (ts : List Token) : Option Arg :=
  match ts with
  | [.str s] => some (.str s)
  | [.word w] =>
    if w = "COMMAND".toList then some (.mode false)
    else if w = "DATA".toList then some (.mode true)
    else (orOf ts).map .num
  | _ => (orOf ts).map .num

/-- The operands, separated by commas; `cur` is the operand being read. -/
def argsOf (cur : List Token) : List Token → Option (List Arg)
  | [] => (argOf cur).map fun a => [a]
  | .comma :: ts =>
    match argOf cur, argsOf [] ts with
    | some a, some as => some (a :: as)
    | _, _ => none
  | t :: ts => argsOf (cur ++ [t]) ts

/-! ## Mnemonics -/

/-- The operand form a mnemonic takes (R115), with the request it makes. -/
inductive Form where
  | bare (i : Instr)
  | byte (f : Byte → Instr)
  | flag (f : Bool → Instr)
  | count (f : Half → Instr)
  | pair (f : Byte → Byte → Instr)
  | string (f : List Byte → Instr)
  | glyph
  | send

/-- The mnemonics of R115 and the pseudo-instructions of R116. -/
def mnemonics : List (List Char × Form) :=
  [("INIT".toList, .bare .init), ("SENDC".toList, .byte .sendc), ("SENDD".toList, .byte .sendd),
   ("BACKLIGHT".toList, .flag .backlight), ("DELAY_MS".toList, .count .delayMs), ("DELAY_US".toList, .count .delayUs),
   ("DISPLAY".toList, .flag .display), ("CURSOR".toList, .flag .cursor), ("BLINK".toList, .flag .blink),
   ("AUTOSCROLL".toList, .flag .autoscroll), ("LEFT_TO_RIGHT".toList, .bare .leftToRight),
   ("RIGHT_TO_LEFT".toList, .bare .rightToLeft), ("SET_CURSOR".toList, .pair .setCursor),
   ("PRINT_CHAR".toList, .byte .printChar), ("PRINT_STR".toList, .string .printStr),
   ("PRINT_LONG_STR".toList, .string .printLongStr), ("HOME".toList, .bare .home), ("CLEAR".toList, .bare .clear),
   ("NEXT_LINE".toList, .bare .nextLine), ("CREATE_CHAR".toList, .glyph)]
  ++ [("DISPLAY_ON".toList, .bare (.display true)), ("DISPLAY_OFF".toList, .bare (.display false)),
   ("CURSOR_ON".toList, .bare (.cursor true)), ("CURSOR_OFF".toList, .bare (.cursor false)),
   ("BLINK_ON".toList, .bare (.blink true)), ("BLINK_OFF".toList, .bare (.blink false)),
   ("AUTOSCROLL_ON".toList, .bare (.autoscroll true)), ("AUTOSCROLL_OFF".toList, .bare (.autoscroll false)),
   ("BACKLIGHT_ON".toList, .bare (.backlight true)), ("BACKLIGHT_OFF".toList, .bare (.backlight false)),
   ("SEND".toList, .send)]

/-- An 8-bit operand. -/
def byteArg (n : Nat) : Option Byte := if n < 256 then some (BitVec.ofNat 8 n) else none

/-- Eight bitmap bytes, or however many numbers stand there. -/
def byteArgs : List Arg → Option (List Byte)
  | [] => some []
  | .num n :: as =>
    match byteArg n, byteArgs as with
    | some b, some bs => some (b :: bs)
    | _, _ => none
  | _ :: _ => none

/-- The request of a form and its operands; refused where an operand does not fit its field. -/
def formInstr (f : Form) (args : List Arg) : Option Instr :=
  match f, args with
  | .bare i, [] => some i
  | .byte g, [.num n] => (byteArg n).map g
  | .flag g, [.num n] => if n < 2 then some (g (n == 1)) else none
  | .count g, [.num n] => if n < 65536 then some (g (BitVec.ofNat 16 n)) else none
  | .pair g, [.num a, .num b] =>
    match byteArg a, byteArg b with
    | some x, some y => some (g x y)
    | _, _ => none
  | .string g, [.str s] => some (g s)
  | .glyph, .num slot :: rest =>
    match byteArg slot, byteArgs rest with
    | some x, some bs => some (.createChar x bs)
    | _, _ => none
  | .send, [.num n, .mode data] => (byteArg n).map (if data then .sendd else .sendc)
  | _, _ => none

/-- The instruction of a line: a mnemonic and its operands. -/
def parseLine (line : List Char) : Option Instr :=
  match tokens line.length line with
  | some (.word w :: ts) =>
    match mnemonics.find? (fun p => p.1 == w), (if ts.isEmpty then some [] else argsOf [] ts) with
    | some p, some args => formInstr p.2 args
    | _, _ => none
  | _ => none

/-- The request word and payload of a line; a line whose payload has no encoding (R105) gives none. -/
def assemble (line : String) : Option PortWord :=
  match parseLine line.toList with
  | some i => if i.wf then some (encode i) else none
  | none => none

end Sys2Proof.Machine
end

