-- ==== Sys2Proof/Machine/Latch.lean ====
section
/-! DEFINITION. What the controller latches, read off the bus events (20_memory.md R81, 40_protocol_engine.md R157,
70_reset_and_hazards.md R419, R420), and the least time the waits of a run take (R425). The block reads none of it. -/

namespace Sys2Proof.Machine

/-- What one event makes the controller latch. -/
inductive Latch where
  /-- The nibble D7..D4 with the level of RS, sampled at a falling edge of Enable (R157). -/
  | nibble (rs : Bool) (n : BitVec 4)
  /-- The controller may have latched something, or what it latched is not known (R419, R420). -/
  | uncertain
  deriving DecidableEq, Repr

/-- RS and D7..D4 of an expander byte (R106). -/
def byteLatch (b : Byte) : Latch := .nibble b[0] (b.extractLsb' 4 4)

/-- RS and D7..D4 of the DISCRETE lines, where all five are known (R108, R157). -/
def lineLatch (m : BusImage) : Latch :=
  match m.rs, m.d7, m.d6, m.d5, m.d4 with
  | .known rs, .known d7, .known d6, .known d5, .known d4 =>
    .nibble rs (BitVec.ofBool d7 ++ BitVec.ofBool d6 ++ BitVec.ofBool d5 ++ BitVec.ofBool d4)
  | _, _, _, _, _ => .uncertain

/-- The level of Enable in an image: bit 2 of `OUTB` on EXPANDER, the line E on DISCRETE (R106, R108). -/
def enableLevel (v : Variant) (m : BusImage) : Drive Bool :=
  match v with
  | .discrete => m.e
  | .expander =>
    match m.outb with
    | .known b => .known b[2]
    | .unknown => .unknown

/-- A write that drives Enable low, answered `Ok` or `Fail`, with Enable at `level` before it: nothing where Enable was
low (R81), a latch of `l` at a falling edge (R157), and in every other case nothing certain (R419, R420). -/
def edgeLatch (level : Drive Bool) (answered : Bool) (l : Latch) : Option Latch :=
  match level with
  | .known false => none
  | .known true => some (if answered then l else .uncertain)
  | .unknown => some .uncertain

/-- What a bus write makes the controller latch, from the image before it: only a write that drives Enable low can
(R81, R157). -/
def writeLatch (m : BusImage) (w : BusWrite) (answered : Bool) : Option Latch :=
  match w with
  | .byte _ b => if b[2] then none else edgeLatch (enableLevel .expander m) answered (byteLatch b)
  | .line .e false => edgeLatch (enableLevel .discrete m) answered (lineLatch m)
  | .line _ _ => none

/-- What an event makes the controller latch. -/
def latchOf (m : BusImage) : Event → Option Latch
  | .write w => writeLatch m w true
  | .failed w => writeLatch m w false
  | .waitUs _ => none
  | .waitMs _ => none

/-- What a list of events makes the controller latch, in order. -/
def latches : BusImage → List Event → List Latch
  | _, [] => []
  | m, e :: es => (latchOf m e).toList ++ latches (imageAfter m e) es

/-- The least time one event takes, in microseconds: a wait is a lower bound, and a bus write has no stated time
(R153, R425). -/
def leastMicros : Event → Nat
  | .waitUs n => n.toNat
  | .waitMs n => 1000 * n.toNat
  | .write _ => 0
  | .failed _ => 0

/-- The least total wait of a list of events, in microseconds (R425). -/
def totalMicros (es : List Event) : Nat := (es.map leastMicros).sum

end Sys2Proof.Machine
end

