-- ==== Sys2Proof/Safety.lean ====
section
/-! DEFINITION. The terms claims are stated in: what the bus is going to answer, the event lists of 40_protocol_engine.md
R158 and 41_init_sequencer.md R213 written out, the state a request ends in, and the invariant of the machine. -/

namespace Sys2Proof.Safety

open Sys2Proof.Machine

/-! ## What the bus is going to answer (R151) -/

/-- The answer to the `j`-th bus write from now, `j` from 0: from the state's list of answers, and where that has run
out the free value. -/
def oracle (s : State) (j : Nat) : Answer := (s.answers.drop j).headD (Config.freeAnswer (s.draws + j))

/-- The next `n` bus writes are answered `Ok`. -/
abbrev AllOk (n : Nat) (s : State) : Prop := ∀ j, j < n → oracle s j = .ok

/-- The next `k` bus writes are answered `Ok` and the one after them `Fail`. -/
abbrev FailsAfter (k : Nat) (s : State) : Prop := AllOk k s ∧ oracle s k = .fail

/-! ## Event lists of the spec -/

/-- The bus writes of an event list, the failed ones too: each has drawn one answer (R151). -/
def attempts : List Event → Nat
  | [] => 0
  | .write _ :: es => attempts es + 1
  | .failed _ :: es => attempts es + 1
  | .waitUs _ :: es => attempts es
  | .waitMs _ :: es => attempts es

/-- The events of a request whose `k`-th bus write, `k` from 0, is answered `Fail`: the events before it, then
`Failed` of that write, then none (R152). -/
def cutAt : Nat → List Event → List Event
  | _, [] => []
  | 0, .write w :: _ => [.failed w]
  | k + 1, .write w :: es => .write w :: cutAt k es
  | k, .failed w :: es => .failed w :: cutAt k es
  | k, .waitUs n :: es => .waitUs n :: cutAt k es
  | k, .waitMs n :: es => .waitMs n :: cutAt k es

/-- `Byte(b)` on the block's expander. -/
def byteEvent (c : Config) (b : Byte) : Event := .write (.byte c.i2cAddr b)

/-- `Line(l, v)`. -/
def lineEvent (l : Line) (v : Bool) : Event := .write (.line l v)

/-- `W1`, the wait while Enable is high. -/
def w1 (c : Config) : Event := .waitUs c.tEnHighUs

/-- `W50`, the wait after Enable falls. -/
def w50 (c : Config) : Event := .waitUs c.tEnSettleUs

/-- One nibble transaction as R158 and 95_test_vectors.md part 0 list it: `h0 h1 W1 h0 W50` with `h1 = h0 | 0x04` on
EXPANDER, `RS D4 D5 D6 D7 E=1 W1 E=0 W50` on DISCRETE. `nib` is in bits 7:4. -/
def nibbleEvents (c : Config) (bl : Bool) (nib : Byte) (rs : Bool) : List Event :=
  match c.variant with
  | .expander =>
    let h0 : Byte := (nib &&& 0xF0#8) ||| (if bl then 0x08#8 else 0#8) ||| (if rs then 0x01#8 else 0#8)
    [byteEvent c h0, byteEvent c (h0 ||| 0x04#8), w1 c, byteEvent c h0, w50 c]
  | .discrete =>
    [lineEvent .rs rs, lineEvent .d4 nib[4], lineEvent .d5 nib[5], lineEvent .d6 nib[6], lineEvent .d7 nib[7],
     lineEvent .e true, w1 c, lineEvent .e false, w50 c]

/-- One transfer of `v`: the high nibble, then the low nibble (R158). -/
def sendEvents (c : Config) (bl : Bool) (v : Byte) (rs : Bool) : List Event :=
  nibbleEvents c bl (v &&& 0xF0#8) rs ++ nibbleEvents c bl (v <<< 4) rs

/-- The DATA transfers of a string, one a byte, in order (R77). -/
def dataEvents (c : Config) (bl : Bool) (str : List Byte) : List Event := str.flatMap fun v => sendEvents c bl v true

/-- The line assertion of INIT (R202). -/
def assertEvents (c : Config) (bl : Bool) : List Event :=
  match c.variant with
  | .expander => [byteEvent c (if bl then 0x08#8 else 0x00#8)]
  | .discrete => [Line.rs, .e, .d4, .d5, .d6, .d7].map fun l => lineEvent l false

/-- INIT before the DisplayControl step: assertion, power-up waits, the four handshake nibbles, FunctionSet (R213). -/
def initHead (c : Config) (bl : Bool) : List Event :=
  let n3 := nibbleEvents c bl 0x30#8 false ++ [.waitUs c.tInit3Us]
  assertEvents c bl ++ [.waitMs c.tPwrAMs, .waitMs c.tPwrBMs] ++ n3 ++ n3 ++ n3 ++ nibbleEvents c bl 0x20#8 false
    ++ sendEvents c bl (if 1 < c.rows.toNat then 0x28#8 else 0x20#8) false

/-- INIT from the DisplayControl step up to the wait after ClearDisplay (R213). -/
def initMiddle (c : Config) (bl : Bool) : List Event :=
  sendEvents c bl 0x0C#8 false ++ sendEvents c bl 0x01#8 false ++ [.waitMs c.tClearMs]

/-- INIT from the EntryModeSet step to the end (R213). -/
def initTail (c : Config) (bl : Bool) : List Event :=
  sendEvents c bl 0x06#8 false ++ sendEvents c bl 0x02#8 false ++ [.waitMs c.tHomeMs]

/-- The events of a successful INIT (R213). -/
def initEvents (c : Config) (bl : Bool) : List Event := initHead c bl ++ initMiddle c bl ++ initTail c bl

/-- The transfers of PRINT_LONG_STR from index `i` on: before each index whose column is 0, other than index 0, the
address command of its row, where a row index of `CFG.ROWS` or more counts as 0 (R284). The offsets are those of R73,
which the three supported row counts share. -/
def longEvents (c : Config) (bl : Bool) : Nat → List Byte → List Event
  | _, [] => []
  | i, ch :: rest =>
    let row := if c.rows.toNat ≤ i / c.cols.toNat then 0 else i / c.cols.toNat
    (if 0 < i ∧ i % c.cols.toNat = 0 then
      sendEvents c bl (0x80#8 ||| BitVec.ofNat 8 ([0x00, 0x40, 0x14, 0x54].getD row 0)) false else [])
      ++ sendEvents c bl ch true ++ longEvents c bl (i + 1) rest

/-- `CURLINE` after PRINT_LONG_STR of `n` bytes: the row of its last segment, 0 where that index is `CFG.ROWS` or more
(R284). -/
def longLastRow (c : Config) (n : Nat) : Nat :=
  let row := (n - 1) / c.cols.toNat
  if c.rows.toNat ≤ row then 0 else row

/-- The transfers of PRINT_LONG_STR from index `i` on, in order: a cursor move to a row, or `none` for a character
(R284). -/
def longMoves (c : Config) : Nat → List Byte → List (Option Byte)
  | _, [] => []
  | i, _ :: rest =>
    let row := if c.rows.toNat ≤ i / c.cols.toNat then 0 else i / c.cols.toNat
    (if 0 < i ∧ i % c.cols.toNat = 0 then [some (BitVec.ofNat 8 row)] else []) ++ none :: longMoves c (i + 1) rest

/-! ## Counts and tables of the spec -/

/-- The bus writes of one nibble transaction: 3 bytes on EXPANDER, 7 line writes on DISCRETE (R156). -/
def nibbleWrites (c : Config) : Nat :=
  match c.variant with
  | .expander => 3
  | .discrete => 7

/-- `CURLINE`, from `line`, when bus write `k` of a list of transfers fails: the row of the last cursor move that went
through before it (R166, decision D44). -/
def movedLine (c : Config) (line : Byte) (moves : List (Option Byte)) (k : Nat) : Byte :=
  (moves.take (k / (2 * nibbleWrites c))).foldl (fun l move => move.getD l) line

/-- A bus write answered `Ok`. -/
def isWrite : Event → Bool
  | .write _ => true
  | .failed _ | .waitUs _ | .waitMs _ => false

/-- A wait. -/
def isWait : Event → Bool
  | .waitUs _ | .waitMs _ => true
  | .write _ | .failed _ => false

/-- The bus writes of the line assertion (R201). -/
def assertWrites (c : Config) : Nat :=
  match c.variant with
  | .expander => 1
  | .discrete => 6

/-- The bus writes of INIT before its DisplayControl step (R201). -/
def initHeadWrites (c : Config) : Nat := assertWrites c + 6 * nibbleWrites c

/-- The bus writes of INIT before its EntryModeSet step (R201). -/
def initMiddleWrites (c : Config) : Nat := initHeadWrites c + 4 * nibbleWrites c

/-- The bus writes of a successful INIT (R201, R214). -/
def initWrites (c : Config) : Nat := initMiddleWrites c + 4 * nibbleWrites c

/-- The row-offset table of R73 as triples `(CFG.ROWS, row, rowOffset[row])`. -/
def rowOffsetTable : List (Byte × Byte × Nat) :=
  [(1, 0, 0x00), (2, 0, 0x00), (2, 1, 0x40), (4, 0, 0x00), (4, 1, 0x40), (4, 2, 0x14), (4, 3, 0x54)]

/-- `CFG.ROWS` has a row-offset mapping (R73). -/
abbrev supportedRows (c : Config) : Prop := c.rows = 1#8 ∨ c.rows = 2#8 ∨ c.rows = 4#8

/-- The events `t` has beyond those of `s`. -/
def newEvents (s t : State) : List Event := t.trace.drop s.trace.length

/-! ## The state a request ends in -/

/-- `s` after the events `es` and the response `code`: the observation grows, the bus image follows the events and each
bus write has used up one answer (R10, R41, R151). No register of the block changes. -/
def finished (s : State) (es : List Event) (code : Code) : State :=
  { s with
    image := es.foldl imageAfter s.image
    trace := s.trace ++ es
    responses := s.responses ++ [code]
    answers := s.answers.drop (attempts es)
    draws := s.draws + attempts es }

/-- `s` with some contents of the working registers, whose values between requests are unspecified (R33). -/
def withWork (s : State) (xv : Byte) (xrs : Bool) (nib : Byte) : State := { s with xv := xv, xrs := xrs, nib := nib }

/-- `i` in `s` answers OK with one transfer of `v` at the RS level `rs`, followed by the waits `after`, and changes no
register (R330). -/
def TransfersAs (i : Instr) (s : State) (rs : Bool) (v : Byte) (after : List Event) : Prop :=
  ∃ xv xrs nib, exec i s =
    .next (finished (withWork s xv xrs nib) (sendEvents s.cfg s.bl v rs ++ after) .ok)

/-- `i` in `s`, where bus write `k` of its transfer of `v` at the RS level `rs` fails, answers `BUS_WRITE_FAILURE`: the
events end with that write, no wait follows, and no register changes (R152). -/
def StopsAs (i : Instr) (s : State) (rs : Bool) (v : Byte) (k : Nat) : Prop :=
  ∃ xv xrs nib, exec i s =
    .next (finished (withWork s xv xrs nib) (cutAt k (sendEvents s.cfg s.bl v rs)) .busWriteFailure)

/-! ## The invariant of the machine -/

/-- A bus write of the block: on EXPANDER a byte to `CFG.I2C_ADDR` with RW = 0, on DISCRETE a line (R10, R71, R106). -/
def writeFits (c : Config) : BusWrite → Bool
  | .byte addr b => c.variant == .expander && addr == c.i2cAddr && !b[1]
  | .line _ _ => c.variant == .discrete

/-- An event of the block. -/
def eventFits (c : Config) : Event → Bool
  | .write w => writeFits c w
  | .failed w => writeFits c w
  | .waitUs _ => true
  | .waitMs _ => true

/-- The backlight bit of an expander byte, written or failed, is `bl` (R164). -/
def carriesBacklight (bl : Bool) : Event → Bool
  | .write (.byte _ b) => b[3] == bl
  | .failed (.byte _ b) => b[3] == bl
  | .write (.line _ _) => true
  | .failed (.line _ _) => true
  | .waitUs _ => true
  | .waitMs _ => true

/-- Between requests `SEQ` is POWER_UP, READY or FAILED (R37). -/
def restingSeq : Seq → Bool
  | .powerUp => true
  | .ready => true
  | .failed => true
  | _ => false

/-- The bus image of a variant: a known expander byte has RW = 0, and the other variant's part is never driven
(R41, R106). -/
def imageFits (c : Config) (m : BusImage) : Bool :=
  match c.variant with
  | .expander =>
    (match m.outb with
      | .known b => !b[1]
      | .unknown => true)
      && m.rs == .unknown && m.e == .unknown && m.d4 == .unknown && m.d5 == .unknown && m.d6 == .unknown
      && m.d7 == .unknown
  | .discrete => m.outb == .unknown

/-- The invariant: a configuration construction accepts (R31), `SEQ` at rest (R37), `CURLINE` at most `CFG.ROWS` (R39),
every event one the variant can produce (R10, R71, R106), and a bus image of that variant (R41). -/
structure Inv (s : State) : Prop where
  cols : s.cfg.cols ≠ 0#8
  seq : restingSeq s.seq = true
  curline : s.curline ≤ s.cfg.rows
  trace : ∀ e ∈ s.trace, eventFits s.cfg e = true
  image : imageFits s.cfg s.image = true

/-- The run has come to no refusal and no fault (R11: a run with one is not a successful run). -/
def Successful : Host.Outcome State Fault Refusal → Prop
  | .next _ => True
  | .fault _ => False
  | .refused _ => False

/-- A REQ32 word and payload R104 does not refuse: the clauses (a) to (e) read as their negations, over the map of
R102 and the lengths of R105. -/
def LegalRequest (w : Word) (payload : List Byte) : Prop :=
  let op := w.toNat / 2 ^ 24
  let a := w.toNat / 2 ^ 16 % 256
  let b := w.toNat / 2 ^ 8 % 256
  let c := w.toNat % 256
  a = 0 ∧
    ((op ∈ [0x01, 0x14, 0x15, 0x24, 0x25, 0x26] ∧ b = 0 ∧ c = 0 ∧ payload.length = 0) ∨
     (op ∈ [0x02, 0x03, 0x21] ∧ b = 0 ∧ payload.length = 0) ∨
     (op ∈ [0x04, 0x10, 0x11, 0x12, 0x13] ∧ b = 0 ∧ c ≤ 1 ∧ payload.length = 0) ∨
     (op ∈ [0x05, 0x06, 0x20] ∧ payload.length = 0) ∨
     (op ∈ [0x22, 0x23] ∧ payload.length = 256 * b + c) ∨
     (op = 0x30 ∧ b = 0 ∧ payload.length = 8))

/-- Which instruction may end with which response code, in which configuration (the matrix of R371; the command rows
and the handshake nibbles as R152 and R330 give them). -/
def mayEnd (c : Config) (i : Instr) (code : Code) : Bool :=
  match i with
  | .init => code == .ok || code == .initializationFailed
  | .backlight _ => code == .ok || (code == .busWriteFailure && c.variant == .expander)
  | .delayMs _ | .delayUs _ => code == .ok
  | .setCursor _ _ =>
    code == .ok || code == .rowOutOfBounds || code == .unsupportedGeometry || code == .busWriteFailure
  | .printLongStr _ =>
    code == .ok || (code == .rowOutOfBounds && c.rows == 0#8) || code == .unsupportedGeometry
      || code == .busWriteFailure
  | .nextLine =>
    code == .ok || code == .rowOutOfBounds || code == .unsupportedGeometry || code == .unsupportedOnSingleRow
      || code == .busWriteFailure
  | .createChar _ _ => code == .ok || code == .slotOutOfBounds || code == .busWriteFailure
  | .sendc _ | .sendd _ | .display _ | .cursor _ | .blink _ | .autoscroll _ | .leftToRight | .rightToLeft
  | .printChar _ | .printStr _ | .home | .clear | .clearDisplay | .returnHome _ | .entryModeSet _ _
  | .displayControl _ _ _ | .cursorShift _ _ _ | .functionSet _ _ _ _ | .setCGRAMAddr _ | .setDDRAMAddr _
  | .writeData _ | .reserved00 | .handshakeNibble3 | .handshakeNibble2 =>
    code == .ok || code == .busWriteFailure

end Sys2Proof.Safety
end

