-- ==== Sys2Proof/Certificates/Slice0/Obligations.lean ====
section
/-! DEFINITION. The statements for the provers, from the numbered rules of spec/. In every statement about a request the
working registers `XV`, `XRS`, `NIB` may end with any contents: their values between requests are unspecified (R33). -/

open Sys2Proof Sys2Proof.Machine Sys2Proof.Safety

/-! ## Encoding -/

/-- R102, R109, R112: words written out from the encoding tables decode to the instructions they stand for
(95_test_vectors.md V-ENC-1, V-CMD-1). (The request opcodes are the spec's decision D1.) -/
def Obligations.SpecWordsDecode : Prop :=
  decode (.request 0x01000000#32 []) = .ok .init ∧
  decode (.request 0x02000028#32 []) = .ok (.sendc 0x28#8) ∧
  decode (.request 0x03000041#32 []) = .ok (.sendd 0x41#8) ∧
  decode (.request 0x04000001#32 []) = .ok (.backlight true) ∧
  decode (.request 0x050003E8#32 []) = .ok (.delayMs 1000#16) ∧
  decode (.request 0x06001194#32 []) = .ok (.delayUs 4500#16) ∧
  decode (.request 0x12000001#32 []) = .ok (.blink true) ∧
  decode (.request 0x13000000#32 []) = .ok (.autoscroll false) ∧
  decode (.request 0x15000000#32 []) = .ok .rightToLeft ∧
  decode (.request 0x20000501#32 []) = .ok (.setCursor 5#8 1#8) ∧
  decode (.request 0x22000002#32 [0x48#8, 0x69#8]) = .ok (.printStr [0x48#8, 0x69#8]) ∧
  decode (.request 0x26000000#32 []) = .ok .nextLine ∧
  decode (.transfer 0b000000001#9) = .ok .clearDisplay ∧
  decode (.transfer 0b000001110#9) = .ok (.displayControl true true false) ∧
  decode (.transfer 0b001111000#9) = .ok (.setCGRAMAddr 0x38#6) ∧
  decode (.transfer 0b101000001#9) = .ok (.writeData 0x41#8) ∧
  decode (.nibble 0b00011#5) = .ok .handshakeNibble3

/-- R101 to R105, R109, R112: for every well-formed instruction, with every operand at every value the encoding admits,
decoding its encoding gives it back. -/
def Obligations.DecodeOfEncode : Prop := ∀ i : Instr, i.wf = true → decode (encode i) = .ok i

/-- R101 to R105, R109, R112: what the decoder reads is well formed, and its encoding is the very word that was read: no
instruction has a second spelling. -/
def Obligations.EncodeOfDecode : Prop :=
  ∀ (p : PortWord) (i : Instr), decode p = .ok i → i.wf = true ∧ encode i = p

/-- R104: a request word and payload is refused with `IllegalRequest` exactly when one of (a) to (e) holds, whatever
the state of the block. (Refusing them is the spec's decision D31.) -/
def Obligations.IllegalRequestsRefused : Prop :=
  ∀ (s : State) (w : Word) (payload : List Byte) (ms : List Move), s.cfg.cols ≠ 0#8 →
    s.moves = .issue (.request w payload) :: ms →
    ((∃ why, step s = .refused (.illegalRequest why)) ↔ ¬ LegalRequest w payload)

/-- R109: with RS = 1 every byte is data; with RS = 0 an instruction byte is named by its most significant 1 bit, and
0x00 is no command. Stated on the numbers of the patterns. (The spec marks the top-bit decoding as general knowledge,
G6.) -/
def Obligations.CommandNamedByTopBit : Prop :=
  ∀ cmd : BitVec 9, ∃ i, decode (.transfer cmd) = .ok i ∧
    ((∃ d, i = .writeData d) ↔ 256 ≤ cmd.toNat) ∧
    ((∃ a, i = .setDDRAMAddr a) ↔ 128 ≤ cmd.toNat ∧ cmd.toNat < 256) ∧
    ((∃ a, i = .setCGRAMAddr a) ↔ 64 ≤ cmd.toNat ∧ cmd.toNat < 128) ∧
    ((∃ l n f x, i = .functionSet l n f x) ↔ 32 ≤ cmd.toNat ∧ cmd.toNat < 64) ∧
    ((∃ p r x, i = .cursorShift p r x) ↔ 16 ≤ cmd.toNat ∧ cmd.toNat < 32) ∧
    ((∃ d c b, i = .displayControl d c b) ↔ 8 ≤ cmd.toNat ∧ cmd.toNat < 16) ∧
    ((∃ e h, i = .entryModeSet e h) ↔ 4 ≤ cmd.toNat ∧ cmd.toNat < 8) ∧
    ((∃ x, i = .returnHome x) ↔ 2 ≤ cmd.toNat ∧ cmd.toNat < 4) ∧
    (i = .clearDisplay ↔ cmd.toNat = 1) ∧ (i = .reserved00 ↔ cmd.toNat = 0)

/-- R115, R116: lines of the assembler give the words and payloads of the spec: lines of V-ENC-1, a pseudo-instruction
of R116 and its symbolic constants with `|` among them. (The assembler is the spec's decision D1. That `BACKLIGHT 2`, an
operand that does not fit its field, gives no request is the model's choice, log 23: R115 and R116 are silent on it.) -/
def Obligations.AssemblerLines : Prop :=
  assemble "SET_CURSOR 5, 1" = some (.request 0x20000501#32 []) ∧
  assemble "SENDD 'A'" = some (.request 0x03000041#32 []) ∧
  assemble "DELAY_MS 1000" = some (.request 0x050003E8#32 []) ∧
  assemble "BLINK_ON" = some (.request 0x12000001#32 []) ∧
  assemble "SEND 0x01, COMMAND" = some (.request 0x02000001#32 []) ∧
  assemble "SENDC SETDDRAMADDR | 0x40" = some (.request 0x020000C0#32 []) ∧
  assemble "PRINT_STR \"Hi\"" = some (.request 0x22000002#32 [0x48#8, 0x69#8]) ∧
  assemble "BACKLIGHT 2" = none

/-! ## Step, reset, power loss -/

/-- R9: a word at the port that decodes to `i` runs as `exec i`, in the state where the move has been taken; nothing
else is added around it. (One request as one step is the spec's decision D1. Only a request word is a host's: that a
CMD9 or NIB5 word can arrive at the port by itself is the model's choice, log 5.) -/
def Obligations.StepRunsDecoded : Prop :=
  ∀ (s : State) (p : PortWord) (ms : List Move) (i : Instr), s.cfg.cols ≠ 0#8 → s.moves = .issue p :: ms →
    decode p = .ok i → step s = exec i { s with moves := ms }

/-- R12, R410, R412: with no request issued the block stays as it is; power loss gives the reset state with the same
configuration, while the observation and the environment's inputs stay. (What power loss does is the spec's decision
D30; the idle step is the model's, log 11.) -/
def Obligations.IdleAndPowerLoss : Prop :=
  ∀ s : State, s.cfg.cols ≠ 0#8 →
    (s.moves = [] → step s = .next s) ∧
    (∀ ms, s.moves = .powerLoss :: ms →
      step s = .next { State.resetOf s.cfg with
        trace := s.trace, responses := s.responses, moves := ms, answers := s.answers, draws := s.draws })

/-- R411: after construction with any configuration every register holds its reset value, the bus image is UNKNOWN and
nothing has happened on the bus. The values of `DCTL`, `EMODE` and `CURLINE` are the spec's decision D13. -/
def Obligations.ResetLeaves : Prop :=
  ∀ c : Config,
    (State.resetOf c).cfg = c ∧ (State.resetOf c).bl = c.blInit ∧ (State.resetOf c).dctl = 0b000#3 ∧
    (State.resetOf c).emode = 0b00#2 ∧ (State.resetOf c).curline = 0#8 ∧ (State.resetOf c).seq = .powerUp ∧
    (State.resetOf c).image = ⟨.unknown, .unknown, .unknown, .unknown, .unknown, .unknown, .unknown⟩ ∧
    (State.resetOf c).trace = [] ∧ (State.resetOf c).responses = []

/-- R31: construction refuses `CFG.COLS = 0` and accepts every other configuration. (The spec's decisions D21 and
D36.) -/
def Obligations.ConstructionChecksCols : Prop :=
  ∀ c : Config, (c.cols = 0#8 → construct c = .refused .invalidConfiguration) ∧
    (c.cols ≠ 0#8 → construct c = .next (State.resetOf c))

/-- R370: the numbers of the response codes. (The spec's decision D20.) -/
def Obligations.ResponseCodeNumbers : Prop :=
  codeNumber .ok = 0#8 ∧ codeNumber .rowOutOfBounds = 1#8 ∧ codeNumber .unsupportedGeometry = 2#8 ∧
  codeNumber .slotOutOfBounds = 3#8 ∧ codeNumber .unsupportedOnSingleRow = 4#8 ∧ codeNumber .busWriteFailure = 5#8 ∧
  codeNumber .initializationFailed = 6#8

/-! ## Serializer -/

/-- R107: the expander byte of a nibble. -/
def Obligations.ExpanderByte : Prop :=
  ∀ (bl : Bool) (nib : Byte) (rs e : Bool),
    exb bl nib rs e =
      (nib &&& 0xF0#8) ||| ((BitVec.ofBool bl).setWidth 8 <<< 3) ||| ((BitVec.ofBool e).setWidth 8 <<< 2)
        ||| ((0#1).setWidth 8 <<< 1) ||| (BitVec.ofBool rs).setWidth 8

/-- R75: a send presents the high nibble, `value & 0xF0`, first and the low nibble, `(value << 4) & 0xF0` at 8 bits,
second; both travel on bits 7:4, with bits 3:0 zero, and together they are the value. -/
def Obligations.NibbleSplit : Prop :=
  ∀ v : Byte,
    (∀ (rs : Bool) (s : State), send v rs s =
      (nibbleTx (v &&& 0xF0#8) rs (s.setXv v)).andThen (nibbleTx ((v <<< 4) &&& 0xF0#8) rs)) ∧
    (v &&& 0xF0#8) &&& 0x0F#8 = 0#8 ∧ ((v <<< 4) &&& 0xF0#8) &&& 0x0F#8 = 0#8 ∧
    (v &&& 0xF0#8) ||| (((v <<< 4) &&& 0xF0#8) >>> 4) = v

/-- R158: SENDC with every bus write answered `Ok` produces the two nibble transactions of the value with RS = 0, high
nibble first, answers OK and writes no architectural register. (The order of the DISCRETE line writes is the spec's
decision D6, RS = 0 its decision D9.) -/
def Obligations.SendcCompletes : Prop :=
  ∀ (s : State) (v : Byte), AllOk (2 * nibbleWrites s.cfg) s →
    ∃ xv xrs nib, exec (.sendc v) s = .next (finished (withWork s xv xrs nib) (sendEvents s.cfg s.bl v false) .ok)

/-- R159: SENDD likewise, with RS = 1. (Likewise decisions D6 and D9.) -/
def Obligations.SenddCompletes : Prop :=
  ∀ (s : State) (v : Byte), AllOk (2 * nibbleWrites s.cfg) s →
    ∃ xv xrs nib, exec (.sendd v) s = .next (finished (withWork s xv xrs nib) (sendEvents s.cfg s.bl v true) .ok)

/-- R152: a failed bus write ends a request of one transfer at once with `BUS_WRITE_FAILURE`: SENDC, SENDD, PRINT_CHAR,
the command rows and the handshake nibbles. The events before it stay, `Failed` of that write is the last, no wait of
the row follows, and no register changes. (That the pulse writes can fail is the spec's decision D7, the image after a
failure D8; that a command row runs by itself and then reports this error is the model's reading, log 8.) -/
def Obligations.FailedSendStops : Prop :=
  ∀ (s : State) (k : Nat), FailsAfter k s →
    (k < 2 * nibbleWrites s.cfg →
      (∀ v, StopsAs (.sendc v) s false v k ∧ StopsAs (.sendd v) s true v k ∧ StopsAs (.printChar v) s true v k) ∧
      StopsAs .clearDisplay s false 0x01#8 k ∧
      (∀ x, StopsAs (.returnHome x) s false (BitVec.ofNat 8 (2 + x.toNat)) k) ∧
      (∀ e h, StopsAs (.entryModeSet e h) s false (BitVec.ofNat 8 (4 + 2 * e.toNat + h.toNat)) k) ∧
      (∀ d c b, StopsAs (.displayControl d c b) s false
        (BitVec.ofNat 8 (8 + 4 * d.toNat + 2 * c.toNat + b.toNat)) k) ∧
      (∀ p r x, StopsAs (.cursorShift p r x) s false
        (BitVec.ofNat 8 (16 + 8 * p.toNat + 4 * r.toNat + x.toNat)) k) ∧
      (∀ l n f x, StopsAs (.functionSet l n f x) s false
        (BitVec.ofNat 8 (32 + 16 * l.toNat + 8 * n.toNat + 4 * f.toNat + x.toNat)) k) ∧
      (∀ a, StopsAs (.setCGRAMAddr a) s false (BitVec.ofNat 8 (64 + a.toNat)) k) ∧
      (∀ a, StopsAs (.setDDRAMAddr a) s false (BitVec.ofNat 8 (128 + a.toNat)) k) ∧
      (∀ d, StopsAs (.writeData d) s true d k) ∧
      StopsAs .reserved00 s false 0x00#8 k) ∧
    (k < nibbleWrites s.cfg → ∀ p ∈ [(Instr.handshakeNibble3, 0x30#8), (Instr.handshakeNibble2, 0x20#8)],
      ∃ xv xrs nib, exec p.1 s =
        .next (finished (withWork s xv xrs nib) (cutAt k (nibbleEvents s.cfg s.bl p.2 false)) .busWriteFailure))

/-- R161: BACKLIGHT writes `BL` always and before the bus; on EXPANDER it writes the byte `on << 3`, whose failure
keeps the new `BL`; on DISCRETE no event occurs. Its two words decode to it. (The byte's content and the silence on
DISCRETE are the spec's decisions D17 and D18.) -/
def Obligations.BacklightSets : Prop :=
  decode (.request 0x04000000#32 []) = .ok (.backlight false) ∧
  decode (.request 0x04000001#32 []) = .ok (.backlight true) ∧
  ∀ (s : State) (on : Bool),
    (s.cfg.variant = .expander → AllOk 1 s →
      exec (.backlight on) s =
        .next (finished { s with bl := on } [byteEvent s.cfg (if on then 0x08#8 else 0x00#8)] .ok)) ∧
    (s.cfg.variant = .expander → FailsAfter 0 s →
      exec (.backlight on) s =
        .next (finished { s with bl := on }
          [.failed (.byte s.cfg.i2cAddr (if on then 0x08#8 else 0x00#8))] .busWriteFailure)) ∧
    (s.cfg.variant = .discrete → exec (.backlight on) s = .next (finished { s with bl := on } [] .ok))

/-- R162: DELAY_MS of any count, 0 included, produces the one wait event, writes no register and answers OK. (That a
wait is a request is the spec's decision D32.) -/
def Obligations.DelayMsWaits : Prop :=
  ∀ (s : State) (n : Half),
    decode (.request (0x05000000#32 ||| n.setWidth 32) []) = .ok (.delayMs n) ∧
    exec (.delayMs n) s = .next (finished s [.waitMs n] .ok)

/-- R163: DELAY_US likewise. -/
def Obligations.DelayUsWaits : Prop :=
  ∀ (s : State) (n : Half),
    decode (.request (0x06000000#32 ||| n.setWidth 32) []) = .ok (.delayUs n) ∧
    exec (.delayUs n) s = .next (finished s [.waitUs n] .ok)

/-- R164: every expander byte an instruction puts on the bus, a failed one too, carries the backlight latch in bit 3;
after BACKLIGHT that is the new value. (Derived by the spec from its own rules.) -/
def Obligations.BacklightInEveryByte : Prop :=
  ∀ (i : Instr) (s t : State), exec i s = .next t → ∀ e ∈ newEvents s t, carriesBacklight t.bl e = true

/-- R34, R422: on DISCRETE the backlight latch never reaches the bus: from two states that differ only in `BL` every
instruction produces the same events and the same response. -/
def Obligations.DiscreteHidesBacklight : Prop :=
  ∀ (i : Instr) (s t : State) (b : Bool), s.cfg.variant = .discrete → exec i s = .next t →
    ∃ u, exec i { s with bl := b } = .next u ∧ u.trace = t.trace ∧ u.responses = t.responses

/-- R165: no instruction but INIT depends on `SEQ` or changes it: with any `SEQ` it does the same. (The spec's
decision D15; for the codes of R201 between requests it is the model's reading, log 10.) -/
def Obligations.NoGatingBySequencer : Prop :=
  ∀ (i : Instr) (s : State) (q : Seq), i ≠ .init →
    exec i { s with seq := q } =
      match exec i s with
      | .next t => .next { t with seq := q }
      | .fault r => .fault r
      | .refused r => .refused r

/-! ## INIT -/

/-- R37, R38: the codes of the sequencer's states, and INIT's states are the codes 1 to 17 in order. (The codes are
the spec's decision D1.) -/
def Obligations.SequencerOrder : Prop :=
  initOrder.map (fun q => (seqCode q).toNat) = List.range' 1 17 ∧ seqCode .powerUp = 0#5 ∧ seqCode .ready = 18#5 ∧
  seqCode .failed = 31#5

/-- R200, R213, R211: INIT from POWER_UP or FAILED with every bus write answered `Ok` produces the whole handshake and
leaves `SEQ = READY`, `DCTL = 0b100`, `EMODE = 0b10`, `CURLINE = 0` and `BL` unchanged. (The assertion's content, the
order of register and send and INIT from FAILED are the spec's decisions D11, D14 and D16.) -/
def Obligations.InitCompletes : Prop :=
  ∀ s : State, s.seq = .powerUp ∨ s.seq = .failed → AllOk (initWrites s.cfg) s →
    ∃ xv xrs nib, exec .init s =
      .next (finished
        (withWork { s with seq := .ready, dctl := 0b100#3, emode := 0b10#2, curline := 0#8 } xv xrs nib)
        (initEvents s.cfg s.bl) .ok)

/-- R212: a failed bus write of INIT, whichever it is, ends it with `INITIALIZATION_FAILED` and `SEQ = FAILED`; the
registers written by the steps before it keep their values: `DCTL` from the DisplayControl step on, `CURLINE` and
`EMODE` from the EntryModeSet step on. (The spec's decisions D11, D14 and D16.) -/
def Obligations.InitFails : Prop :=
  ∀ (s : State) (k : Nat), s.seq = .powerUp ∨ s.seq = .failed → k < initWrites s.cfg → FailsAfter k s →
    ∃ xv xrs nib, exec .init s =
      .next (finished
        (withWork { s with
            seq := .failed
            dctl := if initHeadWrites s.cfg ≤ k then 0b100#3 else s.dctl
            emode := if initMiddleWrites s.cfg ≤ k then 0b10#2 else s.emode
            curline := if initMiddleWrites s.cfg ≤ k then 0#8 else s.curline } xv xrs nib)
        (cutAt k (initEvents s.cfg s.bl)) .initializationFailed)

/-- R200: INIT with `SEQ = READY` is refused with `InitAfterReady`. (The spec's decision D16.) -/
def Obligations.InitRefusedWhenReady : Prop :=
  ∀ s : State, s.seq = .ready → exec .init s = .refused .initAfterReady

/-- R214: a completed INIT has produced 43 bus writes and 35 waits on EXPANDER, 104 bus writes and 35 waits on DISCRETE,
and nothing else. -/
def Obligations.InitEventCounts : Prop :=
  ∀ s : State, s.seq = .powerUp ∨ s.seq = .failed → AllOk (initWrites s.cfg) s →
    ∃ t, exec .init s = .next t ∧
      (s.cfg.variant = .expander →
        (newEvents s t).countP isWrite = 43 ∧ (newEvents s t).countP isWait = 35 ∧ (newEvents s t).length = 78) ∧
      (s.cfg.variant = .discrete →
        (newEvents s t).countP isWrite = 104 ∧ (newEvents s t).countP isWait = 35 ∧ (newEvents s t).length = 139)

/-- R38, R412: no step leaves READY but the loss of power. (The spec's decisions D16 and D37.) -/
def Obligations.ReadyLeftOnlyByPowerLoss : Prop :=
  ∀ s t : State, s.seq = .ready → step s = .next t → t.seq = .ready ∨ ∃ ms, s.moves = .powerLoss :: ms

/-! ## Display state -/

/-- R251, R252, R253: DISPLAY, CURSOR and BLINK set or clear their bit of `DCTL`, keep the other two, and send `0x08 |
DCTL`. (The flag positions are general knowledge, G2.) -/
def Obligations.DisplayControlRequestsComplete : Prop :=
  ∀ (s : State) (on : Bool), AllOk (2 * nibbleWrites s.cfg) s →
    ∀ p ∈ [(Instr.display on, 0b100#3, 0b011#3), (Instr.cursor on, 0b010#3, 0b101#3), (Instr.blink on, 0b001#3, 0b110#3)],
      let d : BitVec 3 := if on then s.dctl ||| p.2.1 else s.dctl &&& p.2.2
      ∃ xv xrs nib, exec p.1 s =
        .next (finished (withWork { s with dctl := d } xv xrs nib)
          (sendEvents s.cfg s.bl (0x08#8 ||| d.setWidth 8) false) .ok)

/-- R254, R255, R256: AUTOSCROLL sets or clears bit 0 of `EMODE`, LEFT_TO_RIGHT sets bit 1 and RIGHT_TO_LEFT clears
it; each keeps the other bit and sends `0x04 | EMODE`. (The flag positions are general knowledge, G3.) -/
def Obligations.EntryModeRequestsComplete : Prop :=
  ∀ (s : State) (on : Bool), AllOk (2 * nibbleWrites s.cfg) s →
    ∀ p ∈ [(Instr.autoscroll on, (if on then s.emode ||| 0b01#2 else s.emode &&& 0b10#2 : BitVec 2)),
           (Instr.leftToRight, s.emode ||| 0b10#2), (Instr.rightToLeft, s.emode &&& 0b01#2)],
      ∃ xv xrs nib, exec p.1 s =
        .next (finished (withWork { s with emode := p.2 } xv xrs nib)
          (sendEvents s.cfg s.bl (0x04#8 ||| p.2.setWidth 8) false) .ok)

/-- R250: if the send of a display-state request fails, the shadow register keeps its new value and the request
reports `BUS_WRITE_FAILURE`. (The spec's decision D27.) -/
def Obligations.DisplayStateKeptOnFailure : Prop :=
  ∀ (s : State) (on : Bool) (k : Nat), k < 2 * nibbleWrites s.cfg → FailsAfter k s →
    (∀ p ∈ [(Instr.display on, (if on then s.dctl ||| 0b100#3 else s.dctl &&& 0b011#3 : BitVec 3)),
            (Instr.cursor on, (if on then s.dctl ||| 0b010#3 else s.dctl &&& 0b101#3 : BitVec 3)),
            (Instr.blink on, (if on then s.dctl ||| 0b001#3 else s.dctl &&& 0b110#3 : BitVec 3))],
      ∃ xv xrs nib, exec p.1 s =
        .next (finished (withWork { s with dctl := p.2 } xv xrs nib)
          (cutAt k (sendEvents s.cfg s.bl (0x08#8 ||| p.2.setWidth 8) false)) .busWriteFailure)) ∧
    (∀ p ∈ [(Instr.autoscroll on, (if on then s.emode ||| 0b01#2 else s.emode &&& 0b10#2 : BitVec 2)),
            (Instr.leftToRight, s.emode ||| 0b10#2), (Instr.rightToLeft, s.emode &&& 0b01#2)],
      ∃ xv xrs nib, exec p.1 s =
        .next (finished (withWork { s with emode := p.2 } xv xrs nib)
          (cutAt k (sendEvents s.cfg s.bl (0x04#8 ||| p.2.setWidth 8) false)) .busWriteFailure))

/-! ## Text layout -/

/-- R280, R73: SET_CURSOR on a mapped row, with an address sum of at most 0xFF, sends `0x80 | (col + rowOffset[row])`
and then writes `CURLINE`; the column is not clamped to `CFG.COLS`. (That `CURLINE` is written after the send is the
spec's decision D44.) -/
def Obligations.SetCursorCompletes : Prop :=
  ∀ (s : State) (col row : Byte) (offset : Nat), (s.cfg.rows, row, offset) ∈ rowOffsetTable →
    col.toNat + offset ≤ 0xFF → AllOk (2 * nibbleWrites s.cfg) s →
    ∃ xv xrs nib, exec (.setCursor col row) s =
      .next (finished (withWork { s with curline := row } xv xrs nib)
        (sendEvents s.cfg s.bl (0x80#8 ||| BitVec.ofNat 8 (col.toNat + offset)) false) .ok)

/-- R373: SET_CURSOR checks the row first, then the geometry, and neither error writes the bus or a register. (The
order of the checks is the spec's decision D22.) -/
def Obligations.SetCursorChecks : Prop :=
  ∀ (s : State) (col row : Byte),
    (s.cfg.rows ≤ row → exec (.setCursor col row) s = .next (finished s [] .rowOutOfBounds)) ∧
    (row < s.cfg.rows → ¬ supportedRows s.cfg →
      exec (.setCursor col row) s = .next (finished s [] .unsupportedGeometry))

/-- R281: SET_CURSOR faults exactly when the row is mapped and the address sum exceeds 0xFF. (The spec's decision
D23.) -/
def Obligations.AddressOverflowFaults : Prop :=
  ∀ (s : State) (col row : Byte),
    exec (.setCursor col row) s = .fault .addressOverflow ↔
      ∃ offset, (s.cfg.rows, row, offset) ∈ rowOffsetTable ∧ 0xFF < col.toNat + offset

/-- R280: a SET_CURSOR whose send fails leaves `CURLINE` unchanged. (The spec's decision D44.) -/
def Obligations.FailedSetCursorKeepsLine : Prop :=
  ∀ (s : State) (col row : Byte) (offset k : Nat), (s.cfg.rows, row, offset) ∈ rowOffsetTable →
    col.toNat + offset ≤ 0xFF → k < 2 * nibbleWrites s.cfg → FailsAfter k s →
    ∃ xv xrs nib, exec (.setCursor col row) s =
      .next (finished (withWork s xv xrs nib)
        (cutAt k (sendEvents s.cfg s.bl (0x80#8 ||| BitVec.ofNat 8 (col.toNat + offset)) false)) .busWriteFailure)

/-- R282, R283: PRINT_CHAR sends its byte as DATA, PRINT_STR every byte in order; neither writes a register, and the
empty string produces no event. -/
def Obligations.PrintCompletes : Prop :=
  ∀ s : State,
    (∀ ch : Byte, AllOk (2 * nibbleWrites s.cfg) s →
      ∃ xv xrs nib, exec (.printChar ch) s =
        .next (finished (withWork s xv xrs nib) (sendEvents s.cfg s.bl ch true) .ok)) ∧
    (∀ str : List Byte, AllOk (2 * nibbleWrites s.cfg * str.length) s →
      ∃ xv xrs nib, exec (.printStr str) s =
        .next (finished (withWork s xv xrs nib) (dataEvents s.cfg s.bl str) .ok))

/-- R284: PRINT_LONG_STR sets the cursor to (0, 0), then sends every byte, setting the cursor again at the start of
each later row segment; a row index of `CFG.ROWS` or more is row 0, and `CURLINE` ends as the row of the last segment.
(The wrap and the cursor moves are the spec's decisions D24 and D43.) -/
def Obligations.PrintLongStrCompletes : Prop :=
  ∀ (s : State) (str : List Byte), s.cfg.cols ≠ 0#8 → supportedRows s.cfg →
    AllOk (attempts (sendEvents s.cfg s.bl 0x80#8 false ++ longEvents s.cfg s.bl 0 str)) s →
    ∃ xv xrs nib, exec (.printLongStr str) s =
      .next (finished (withWork { s with curline := BitVec.ofNat 8 (longLastRow s.cfg str.length) } xv xrs nib)
        (sendEvents s.cfg s.bl 0x80#8 false ++ longEvents s.cfg s.bl 0 str) .ok)

/-- R284: with `CFG.ROWS` outside the table PRINT_LONG_STR fails at its first `set_cursor` and nothing is printed. -/
def Obligations.PrintLongStrChecks : Prop :=
  ∀ (s : State) (str : List Byte),
    (s.cfg.rows = 0#8 → exec (.printLongStr str) s = .next (finished s [] .rowOutOfBounds)) ∧
    (s.cfg.rows ≠ 0#8 → ¬ supportedRows s.cfg →
      exec (.printLongStr str) s = .next (finished s [] .unsupportedGeometry))

/-- R166: PRINT_STR, PRINT_LONG_STR and CREATE_CHAR stop at the first send that fails and report its
`BUS_WRITE_FAILURE`; the events already produced stay, and so do the register writes already made: PRINT_STR and
CREATE_CHAR have made none, PRINT_LONG_STR leaves in `CURLINE` the row of the last cursor move that went through. (That a
cursor move counts only once its send has succeeded is the spec's decision D44, the moves are its decision D24.) -/
def Obligations.ComposedRequestsStop : Prop :=
  ∀ (s : State) (k : Nat), FailsAfter k s →
    (∀ str : List Byte, k < attempts (dataEvents s.cfg s.bl str) →
      ∃ xv xrs nib, exec (.printStr str) s =
        .next (finished (withWork s xv xrs nib) (cutAt k (dataEvents s.cfg s.bl str)) .busWriteFailure)) ∧
    (∀ str : List Byte, s.cfg.cols ≠ 0#8 → supportedRows s.cfg →
      k < attempts (sendEvents s.cfg s.bl 0x80#8 false ++ longEvents s.cfg s.bl 0 str) →
      ∃ xv xrs nib, exec (.printLongStr str) s =
        .next (finished
          (withWork { s with curline := movedLine s.cfg s.curline (some 0#8 :: longMoves s.cfg 0 str) k } xv xrs nib)
          (cutAt k (sendEvents s.cfg s.bl 0x80#8 false ++ longEvents s.cfg s.bl 0 str)) .busWriteFailure)) ∧
    (∀ (slot : Byte) (bitmap : List Byte), slot ≤ 7#8 →
      k < attempts (sendEvents s.cfg s.bl (0x40#8 ||| slot <<< 3) false ++ dataEvents s.cfg s.bl bitmap) →
      ∃ xv xrs nib, exec (.createChar slot bitmap) s =
        .next (finished (withWork s xv xrs nib)
          (cutAt k (sendEvents s.cfg s.bl (0x40#8 ||| slot <<< 3) false ++ dataEvents s.cfg s.bl bitmap))
          .busWriteFailure))

/-- R285: HOME sends 0x02 and then waits `T_HOME_MS`, without writing `CURLINE`; where its send fails there is no
wait. Its word decodes to it. (That `CURLINE` stays is the spec's decision D25.) -/
def Obligations.HomeRequest : Prop :=
  decode (.request 0x24000000#32 []) = .ok .home ∧
  ∀ s : State,
    (AllOk (2 * nibbleWrites s.cfg) s →
      ∃ xv xrs nib, exec .home s =
        .next (finished (withWork s xv xrs nib)
          (sendEvents s.cfg s.bl 0x02#8 false ++ [.waitMs s.cfg.tHomeMs]) .ok)) ∧
    (∀ k, k < 2 * nibbleWrites s.cfg → FailsAfter k s →
      ∃ xv xrs nib, exec .home s =
        .next (finished (withWork s xv xrs nib) (cutAt k (sendEvents s.cfg s.bl 0x02#8 false)) .busWriteFailure))

/-- R286: CLEAR sends 0x01, then waits `T_CLEAR_MS`, then writes `CURLINE <- 0`, and only if the send succeeded. Its
word decodes to it. -/
def Obligations.ClearRequest : Prop :=
  decode (.request 0x25000000#32 []) = .ok .clear ∧
  ∀ s : State,
    (AllOk (2 * nibbleWrites s.cfg) s →
      ∃ xv xrs nib, exec .clear s =
        .next (finished (withWork { s with curline := 0#8 } xv xrs nib)
          (sendEvents s.cfg s.bl 0x01#8 false ++ [.waitMs s.cfg.tClearMs]) .ok)) ∧
    (∀ k, k < 2 * nibbleWrites s.cfg → FailsAfter k s →
      ∃ xv xrs nib, exec .clear s =
        .next (finished (withWork s xv xrs nib) (cutAt k (sendEvents s.cfg s.bl 0x01#8 false)) .busWriteFailure))

/-- R287: on a supported geometry of more than one row NEXT_LINE steps to the next row, or to row 0 from a `CURLINE` of
`CFG.ROWS` or more, and sends that row's address; if a bus write of that send fails it reports `BUS_WRITE_FAILURE` and
the new `CURLINE` stands (R375). -/
def Obligations.NextLineCompletes : Prop :=
  ∀ (s : State) (row : Byte) (offset : Nat), s.cfg.rows ≠ 1#8 → (s.cfg.rows, row, offset) ∈ rowOffsetTable →
    row.toNat = (if s.cfg.rows ≤ s.curline then 0 else s.curline.toNat + 1) →
    (AllOk (2 * nibbleWrites s.cfg) s →
      ∃ xv xrs nib, exec .nextLine s =
        .next (finished (withWork { s with curline := row } xv xrs nib)
          (sendEvents s.cfg s.bl (0x80#8 ||| BitVec.ofNat 8 offset) false) .ok)) ∧
    (∀ k, k < 2 * nibbleWrites s.cfg → FailsAfter k s →
      ∃ xv xrs nib, exec .nextLine s =
        .next (finished (withWork { s with curline := row } xv xrs nib)
          (cutAt k (sendEvents s.cfg s.bl (0x80#8 ||| BitVec.ofNat 8 offset) false)) .busWriteFailure))

/-- R287: NEXT_LINE on one row fails before anything changes; from the last row it steps to `CFG.ROWS`, keeps that value
and fails `ROW_OUT_OF_BOUNDS`; with no row at all it resets `CURLINE` and fails the same way; on any other unsupported
geometry the new `CURLINE` stands and it fails `UNSUPPORTED_GEOMETRY`. No case writes the bus. -/
def Obligations.NextLineChecks : Prop :=
  ∀ s : State,
    (s.cfg.rows = 1#8 → exec .nextLine s = .next (finished s [] .unsupportedOnSingleRow)) ∧
    (s.cfg.rows ≠ 1#8 → s.curline.toNat + 1 = s.cfg.rows.toNat →
      exec .nextLine s = .next (finished { s with curline := s.cfg.rows } [] .rowOutOfBounds)) ∧
    (s.cfg.rows = 0#8 → exec .nextLine s = .next (finished { s with curline := 0#8 } [] .rowOutOfBounds)) ∧
    (¬ supportedRows s.cfg → s.cfg.rows ≠ 0#8 → s.curline.toNat + 1 < s.cfg.rows.toNat →
      exec .nextLine s = .next (finished { s with curline := s.curline + 1#8 } [] .unsupportedGeometry)) ∧
    (¬ supportedRows s.cfg → s.cfg.rows ≠ 0#8 → s.cfg.rows ≤ s.curline →
      exec .nextLine s = .next (finished { s with curline := 0#8 } [] .unsupportedGeometry))

/-! ## Custom characters -/

/-- R320: CREATE_CHAR on a slot of at most 7 sends `0x40 | (slot << 3)` and then the bitmap bytes as DATA, unmasked
and in order; no register is written, `CURLINE` neither. (Sending the bytes unmasked is the spec's decision D42.) -/
def Obligations.CreateCharCompletes : Prop :=
  ∀ (s : State) (slot : Byte) (bitmap : List Byte), slot ≤ 7#8 → bitmap.length = 8 →
    AllOk (9 * (2 * nibbleWrites s.cfg)) s →
    ∃ xv xrs nib, exec (.createChar slot bitmap) s =
      .next (finished (withWork s xv xrs nib)
        (sendEvents s.cfg s.bl (0x40#8 ||| slot <<< 3) false ++ dataEvents s.cfg s.bl bitmap) .ok)

/-- R320: a slot above 7 is `SLOT_OUT_OF_BOUNDS`, before any bus write. -/
def Obligations.CreateCharChecksSlot : Prop :=
  ∀ (s : State) (slot : Byte) (bitmap : List Byte), 7#8 < slot →
    exec (.createChar slot bitmap) s = .next (finished s [] .slotOutOfBounds)

/-! ## Controller commands and handshake nibbles -/

/-- R331 to R339, R342: each command row is one transfer of its byte, RS = 0 for an instruction and 1 for data, with
`T_CLEAR_MS` after ClearDisplay and `T_HOME_MS` after ReturnHome and no other wait; no register of the block changes.
That a command row run by itself keeps the wait of its rule is the model's reading (log 8). -/
def Obligations.CommandTransfersComplete : Prop :=
  ∀ s : State, AllOk (2 * nibbleWrites s.cfg) s →
    TransfersAs .clearDisplay s false 0x01#8 [.waitMs s.cfg.tClearMs] ∧
    (∀ x, TransfersAs (.returnHome x) s false (BitVec.ofNat 8 (2 + x.toNat)) [.waitMs s.cfg.tHomeMs]) ∧
    (∀ e h, TransfersAs (.entryModeSet e h) s false (BitVec.ofNat 8 (4 + 2 * e.toNat + h.toNat)) []) ∧
    (∀ d c b, TransfersAs (.displayControl d c b) s false
      (BitVec.ofNat 8 (8 + 4 * d.toNat + 2 * c.toNat + b.toNat)) []) ∧
    (∀ p r x, TransfersAs (.cursorShift p r x) s false
      (BitVec.ofNat 8 (16 + 8 * p.toNat + 4 * r.toNat + x.toNat)) []) ∧
    (∀ l n f x, TransfersAs (.functionSet l n f x) s false
      (BitVec.ofNat 8 (32 + 16 * l.toNat + 8 * n.toNat + 4 * f.toNat + x.toNat)) []) ∧
    (∀ a, TransfersAs (.setCGRAMAddr a) s false (BitVec.ofNat 8 (64 + a.toNat)) []) ∧
    (∀ a, TransfersAs (.setDDRAMAddr a) s false (BitVec.ofNat 8 (128 + a.toNat)) []) ∧
    (∀ d, TransfersAs (.writeData d) s true d []) ∧
    TransfersAs .reserved00 s false 0x00#8 []

/-- R340, R341: a handshake nibble is one nibble transaction with RS = 0, and 0x3 is followed by `T_INIT3_US`. -/
def Obligations.HandshakeNibblesComplete : Prop :=
  ∀ s : State, AllOk (nibbleWrites s.cfg) s →
    (∃ xv xrs nib, exec .handshakeNibble3 s =
      .next (finished (withWork s xv xrs nib)
        (nibbleEvents s.cfg s.bl 0x30#8 false ++ [.waitUs s.cfg.tInit3Us]) .ok)) ∧
    (∃ xv xrs nib, exec .handshakeNibble2 s =
      .next (finished (withWork s xv xrs nib) (nibbleEvents s.cfg s.bl 0x20#8 false) .ok))

/-! ## All instructions -/

/-- R371: every request that ends, ends with one response code, and one its row of the matrix allows. -/
def Obligations.ResponsesFollowMatrix : Prop :=
  ∀ (i : Instr) (s t : State), exec i s = .next t →
    ∃ code, t.responses = s.responses ++ [code] ∧ mayEnd s.cfg i code = true

/-- R43: the register access matrix, whatever the response: each register is written only by the requests its column
marks, and the configuration and the moves to come by none. (The conditions of each write are those of the request's
own rule.) -/
def Obligations.RegisterAccessMatrix : Prop :=
  ∀ (i : Instr) (s t : State), exec i s = .next t →
    t.cfg = s.cfg ∧ t.moves = s.moves ∧
    ((∀ on, i ≠ .backlight on) → t.bl = s.bl) ∧
    (i ≠ .init → (∀ on, i ≠ .display on ∧ i ≠ .cursor on ∧ i ≠ .blink on) → t.dctl = s.dctl) ∧
    (i ≠ .init → i ≠ .leftToRight → i ≠ .rightToLeft → (∀ on, i ≠ .autoscroll on) → t.emode = s.emode) ∧
    (i ≠ .init → i ≠ .clear → i ≠ .nextLine → (∀ col row, i ≠ .setCursor col row) →
      (∀ str, i ≠ .printLongStr str) → t.curline = s.curline) ∧
    (i ≠ .init → t.seq = s.seq)

/-- R251 to R256: a display-state request writes one bit: the other bits of its own shadow register stay, the other
shadow register and the backlight latch stay whole, whatever the response. -/
def Obligations.OneBitWritten : Prop :=
  ∀ (i : Instr) (s t : State) (on : Bool), exec i s = .next t →
    (i = .display on → t.dctl &&& 0b011#3 = s.dctl &&& 0b011#3 ∧ t.emode = s.emode ∧ t.bl = s.bl) ∧
    (i = .cursor on → t.dctl &&& 0b101#3 = s.dctl &&& 0b101#3 ∧ t.emode = s.emode ∧ t.bl = s.bl) ∧
    (i = .blink on → t.dctl &&& 0b110#3 = s.dctl &&& 0b110#3 ∧ t.emode = s.emode ∧ t.bl = s.bl) ∧
    (i = .autoscroll on → t.emode &&& 0b10#2 = s.emode &&& 0b10#2 ∧ t.dctl = s.dctl ∧ t.bl = s.bl) ∧
    (i = .leftToRight ∨ i = .rightToLeft →
      t.emode &&& 0b01#2 = s.emode &&& 0b01#2 ∧ t.dctl = s.dctl ∧ t.bl = s.bl)

/-- R10, R84, R152, R375: whatever an instruction does, the events before it stay and its own follow them; a failed
write is the last of them and stands there exactly when the response is a bus error; each write, failed or not, has used
up one answer; and the bus image is the image the events leave. -/
def Obligations.EventsOnlyGrow : Prop :=
  ∀ (i : Instr) (s t : State), exec i s = .next t →
    ∃ es code, t.trace = s.trace ++ es ∧ t.responses = s.responses ++ [code] ∧
      t.draws = s.draws + attempts es ∧ t.answers = s.answers.drop (attempts es) ∧
      t.image = es.foldl imageAfter s.image ∧
      (∀ front w back, es = front ++ .failed w :: back → back = []) ∧
      ((∃ w, .failed w ∈ es) ↔ code = .busWriteFailure ∨ code = .initializationFailed)

/-- R377, R9: an instruction answers a next state in every state, but for two cases: INIT in READY is refused, and a
SET_CURSOR whose address overflows faults. (The spec's decisions D16 and D23; INIT in the codes of R201 between
requests is the model's reading, log 10.) -/
def Obligations.OnlyTwoStops : Prop :=
  ∀ (i : Instr) (s : State),
    (∃ t, exec i s = .next t) ∨ (i = .init ∧ s.seq = .ready ∧ exec i s = .refused .initAfterReady) ∨
    (∃ col row offset, i = .setCursor col row ∧ (s.cfg.rows, row, offset) ∈ rowOffsetTable ∧
      0xFF < col.toNat + offset ∧ exec i s = .fault .addressOverflow)

/-- R31, R37, R39, R41, R71, R106: every step keeps the invariant: an accepted configuration, `SEQ` at rest, `CURLINE`
at most `CFG.ROWS`, only events the variant can produce (on EXPANDER bytes to `CFG.I2C_ADDR` with RW = 0, on DISCRETE
lines), and a bus image of that variant. -/
def Obligations.StepKeepsInvariant : Prop := ∀ s t : State, Inv s → step s = .next t → Inv t

/-- R411: construction with an accepted configuration gives a state that meets the invariant; so does reset. -/
def Obligations.InvariantAtReset : Prop :=
  (∀ c : Config, c.cols ≠ 0#8 → Inv (State.resetOf c)) ∧ Inv State.reset

/-! ## What the controller latches -/

/-- R157, R158: with Enable low before it, a completed send makes the controller latch exactly two nibbles with the
send's RS: the high nibble, then the low nibble. -/
def Obligations.SendLatchesValue : Prop :=
  ∀ (s : State) (v : Byte), enableLevel s.cfg.variant s.image = .known false → AllOk (2 * nibbleWrites s.cfg) s →
    (∃ t, exec (.sendc v) s = .next t ∧ latches s.image (newEvents s t) =
      [.nibble false (v.extractLsb' 4 4), .nibble false (v.extractLsb' 0 4)]) ∧
    (∃ t, exec (.sendd v) s = .next t ∧ latches s.image (newEvents s t) =
      [.nibble true (v.extractLsb' 4 4), .nibble true (v.extractLsb' 0 4)])

/-- R77, R157, R283: with Enable low before it, a completed PRINT_STR of any string makes the controller latch exactly
the string's bytes as DATA, in order and nothing else, and leaves Enable low. -/
def Obligations.PrintStrLatchesText : Prop :=
  ∀ (s : State) (str : List Byte), enableLevel s.cfg.variant s.image = .known false →
    AllOk (2 * nibbleWrites s.cfg * str.length) s →
    ∃ t, exec (.printStr str) s = .next t ∧ enableLevel t.cfg.variant t.image = .known false ∧
      latches s.image (newEvents s t) =
        str.flatMap fun v => [.nibble true (v.extractLsb' 4 4), .nibble true (v.extractLsb' 0 4)]

/-- R204, R205, R213: with Enable low or its level unknown before it (as it is after reset), a completed INIT makes
the controller latch the handshake and its five commands and nothing else for certain: nibbles 3, 3, 3, 2, then 0x28 or
0x20, 0x0C, 0x01, 0x06 and 0x02, all with RS = 0; it leaves Enable low. Before them the line assertion latches nothing
where Enable was low (R81), and where its level was unknown it may make one falling edge (R420). (Derived by the spec;
what the observer calls uncertain is the model's, log 12.) -/
def Obligations.InitLatchesHandshake : Prop :=
  ∀ s : State, s.seq = .powerUp ∨ s.seq = .failed → enableLevel s.cfg.variant s.image ≠ .known true →
    AllOk (initWrites s.cfg) s →
    ∃ t, exec .init s = .next t ∧ enableLevel t.cfg.variant t.image = .known false ∧
      latches s.image (newEvents s t) =
        (if enableLevel s.cfg.variant s.image = .unknown then [Latch.uncertain] else []) ++
        ([0x3, 0x3, 0x3, 0x2, 0x2, (if 1 < s.cfg.rows.toNat then 0x8 else 0x0), 0x0, 0xC, 0x0, 0x1, 0x0, 0x6, 0x0, 0x2]
          : List (BitVec 4)).map fun n => Latch.nibble false n

/-- R419: what is latched when a send, SENDC or SENDD, fails, from Enable low: nothing while the high nibble's Enable has
not risen and fallen, uncertain at its falling write, the high nibble alone until the low nibble's falling write, and
there uncertain again. (Derived by the spec; what the observer calls uncertain is the model's, log 12.) -/
def Obligations.FailedSendLatches : Prop :=
  ∀ (s t : State) (v : Byte) (k : Nat), enableLevel s.cfg.variant s.image = .known false →
    k < 2 * nibbleWrites s.cfg → FailsAfter k s →
    ∀ p ∈ [(Instr.sendc v, false), (Instr.sendd v, true)], exec p.1 s = .next t →
      latches s.image (newEvents s t) =
        if k + 1 < nibbleWrites s.cfg then []
        else if k + 1 = nibbleWrites s.cfg then [.uncertain]
        else if k + 1 < 2 * nibbleWrites s.cfg then [.nibble p.2 (v.extractLsb' 4 4)]
        else [.nibble p.2 (v.extractLsb' 4 4), .uncertain]

/-- R420: with Enable's level unknown, on EXPANDER the first byte of the next send, SENDC or SENDD, may latch the nibble
it presents, on top of the two the send's own pulses latch; on DISCRETE the presenting writes do not touch E. (Derived
by the spec; what the observer calls uncertain is the model's, log 12.) -/
def Obligations.EnableLeftHigh : Prop :=
  ∀ (s : State) (v : Byte), enableLevel s.cfg.variant s.image = .unknown → AllOk (2 * nibbleWrites s.cfg) s →
    ∀ p ∈ [(Instr.sendc v, false), (Instr.sendd v, true)],
      ∃ t, exec p.1 s = .next t ∧ latches s.image (newEvents s t) =
        (match s.cfg.variant with
          | .expander => [.uncertain]
          | .discrete => []) ++ [.nibble p.2 (v.extractLsb' 4 4), .nibble p.2 (v.extractLsb' 0 4)]

/-- R425: the least total waits of completed requests with the default timing parameters, in microseconds: 102 for one
send, 51 for the handshake nibble 0x2, 1068214 for INIT, 2102 for CLEAR and HOME, 918 for CREATE_CHAR of eight bytes and
102 a byte for PRINT_STR. (The default durations are the document's literals of R6. The nibble runs by itself by log 5
and log 8.) -/
def Obligations.LeastWaits : Prop :=
  ∀ s : State, s.cfg.DefaultTiming →
    (AllOk (2 * nibbleWrites s.cfg) s →
      ∀ v, ∀ p ∈ [(Instr.sendc v, 102), (.sendd v, 102), (.clear, 2102), (.home, 2102)],
        ∃ t, exec p.1 s = .next t ∧ totalMicros (newEvents s t) = p.2) ∧
    (AllOk (nibbleWrites s.cfg) s →
      ∃ t, exec .handshakeNibble2 s = .next t ∧ totalMicros (newEvents s t) = 51) ∧
    (s.seq = .powerUp ∨ s.seq = .failed → AllOk (initWrites s.cfg) s →
      ∃ t, exec .init s = .next t ∧ totalMicros (newEvents s t) = 1068214) ∧
    (∀ (slot : Byte) (bitmap : List Byte), slot ≤ 7#8 → bitmap.length = 8 → AllOk (9 * (2 * nibbleWrites s.cfg)) s →
      ∃ t, exec (.createChar slot bitmap) s = .next t ∧ totalMicros (newEvents s t) = 918) ∧
    (∀ str : List Byte, AllOk (2 * nibbleWrites s.cfg * str.length) s →
      ∃ t, exec (.printStr str) s = .next t ∧ totalMicros (newEvents s t) = 102 * str.length)
end

