-- ==== Sys2Proof/Laws/State.lean ====
section
/-! SUPPORT. One lemma per field of `State` and register write of Machine/Ops.lean, each true by unfolding, so that no
proof unfolds a record update again. -/

namespace Sys2Proof.Machine.State

/-! ### `setBl` -/

@[simp] theorem setBl_cfg (s : State) (v : Bool) : (s.setBl v).cfg = s.cfg := rfl
@[simp] theorem setBl_bl (s : State) (v : Bool) : (s.setBl v).bl = v := rfl
@[simp] theorem setBl_dctl (s : State) (v : Bool) : (s.setBl v).dctl = s.dctl := rfl
@[simp] theorem setBl_emode (s : State) (v : Bool) : (s.setBl v).emode = s.emode := rfl
@[simp] theorem setBl_seq (s : State) (v : Bool) : (s.setBl v).seq = s.seq := rfl
@[simp] theorem setBl_curline (s : State) (v : Bool) : (s.setBl v).curline = s.curline := rfl
@[simp] theorem setBl_xv (s : State) (v : Bool) : (s.setBl v).xv = s.xv := rfl
@[simp] theorem setBl_xrs (s : State) (v : Bool) : (s.setBl v).xrs = s.xrs := rfl
@[simp] theorem setBl_nib (s : State) (v : Bool) : (s.setBl v).nib = s.nib := rfl
@[simp] theorem setBl_image (s : State) (v : Bool) : (s.setBl v).image = s.image := rfl
@[simp] theorem setBl_trace (s : State) (v : Bool) : (s.setBl v).trace = s.trace := rfl
@[simp] theorem setBl_responses (s : State) (v : Bool) : (s.setBl v).responses = s.responses := rfl
@[simp] theorem setBl_moves (s : State) (v : Bool) : (s.setBl v).moves = s.moves := rfl
@[simp] theorem setBl_answers (s : State) (v : Bool) : (s.setBl v).answers = s.answers := rfl
@[simp] theorem setBl_draws (s : State) (v : Bool) : (s.setBl v).draws = s.draws := rfl

/-! ### `setDctl` -/

@[simp] theorem setDctl_cfg (s : State) (v : BitVec 3) : (s.setDctl v).cfg = s.cfg := rfl
@[simp] theorem setDctl_bl (s : State) (v : BitVec 3) : (s.setDctl v).bl = s.bl := rfl
@[simp] theorem setDctl_dctl (s : State) (v : BitVec 3) : (s.setDctl v).dctl = v := rfl
@[simp] theorem setDctl_emode (s : State) (v : BitVec 3) : (s.setDctl v).emode = s.emode := rfl
@[simp] theorem setDctl_seq (s : State) (v : BitVec 3) : (s.setDctl v).seq = s.seq := rfl
@[simp] theorem setDctl_curline (s : State) (v : BitVec 3) : (s.setDctl v).curline = s.curline := rfl
@[simp] theorem setDctl_xv (s : State) (v : BitVec 3) : (s.setDctl v).xv = s.xv := rfl
@[simp] theorem setDctl_xrs (s : State) (v : BitVec 3) : (s.setDctl v).xrs = s.xrs := rfl
@[simp] theorem setDctl_nib (s : State) (v : BitVec 3) : (s.setDctl v).nib = s.nib := rfl
@[simp] theorem setDctl_image (s : State) (v : BitVec 3) : (s.setDctl v).image = s.image := rfl
@[simp] theorem setDctl_trace (s : State) (v : BitVec 3) : (s.setDctl v).trace = s.trace := rfl
@[simp] theorem setDctl_responses (s : State) (v : BitVec 3) : (s.setDctl v).responses = s.responses := rfl
@[simp] theorem setDctl_moves (s : State) (v : BitVec 3) : (s.setDctl v).moves = s.moves := rfl
@[simp] theorem setDctl_answers (s : State) (v : BitVec 3) : (s.setDctl v).answers = s.answers := rfl
@[simp] theorem setDctl_draws (s : State) (v : BitVec 3) : (s.setDctl v).draws = s.draws := rfl

/-! ### `setEmode` -/

@[simp] theorem setEmode_cfg (s : State) (v : BitVec 2) : (s.setEmode v).cfg = s.cfg := rfl
@[simp] theorem setEmode_bl (s : State) (v : BitVec 2) : (s.setEmode v).bl = s.bl := rfl
@[simp] theorem setEmode_dctl (s : State) (v : BitVec 2) : (s.setEmode v).dctl = s.dctl := rfl
@[simp] theorem setEmode_emode (s : State) (v : BitVec 2) : (s.setEmode v).emode = v := rfl
@[simp] theorem setEmode_seq (s : State) (v : BitVec 2) : (s.setEmode v).seq = s.seq := rfl
@[simp] theorem setEmode_curline (s : State) (v : BitVec 2) : (s.setEmode v).curline = s.curline := rfl
@[simp] theorem setEmode_xv (s : State) (v : BitVec 2) : (s.setEmode v).xv = s.xv := rfl
@[simp] theorem setEmode_xrs (s : State) (v : BitVec 2) : (s.setEmode v).xrs = s.xrs := rfl
@[simp] theorem setEmode_nib (s : State) (v : BitVec 2) : (s.setEmode v).nib = s.nib := rfl
@[simp] theorem setEmode_image (s : State) (v : BitVec 2) : (s.setEmode v).image = s.image := rfl
@[simp] theorem setEmode_trace (s : State) (v : BitVec 2) : (s.setEmode v).trace = s.trace := rfl
@[simp] theorem setEmode_responses (s : State) (v : BitVec 2) : (s.setEmode v).responses = s.responses := rfl
@[simp] theorem setEmode_moves (s : State) (v : BitVec 2) : (s.setEmode v).moves = s.moves := rfl
@[simp] theorem setEmode_answers (s : State) (v : BitVec 2) : (s.setEmode v).answers = s.answers := rfl
@[simp] theorem setEmode_draws (s : State) (v : BitVec 2) : (s.setEmode v).draws = s.draws := rfl

/-! ### `setSeq` -/

@[simp] theorem setSeq_cfg (s : State) (v : Seq) : (s.setSeq v).cfg = s.cfg := rfl
@[simp] theorem setSeq_bl (s : State) (v : Seq) : (s.setSeq v).bl = s.bl := rfl
@[simp] theorem setSeq_dctl (s : State) (v : Seq) : (s.setSeq v).dctl = s.dctl := rfl
@[simp] theorem setSeq_emode (s : State) (v : Seq) : (s.setSeq v).emode = s.emode := rfl
@[simp] theorem setSeq_seq (s : State) (v : Seq) : (s.setSeq v).seq = v := rfl
@[simp] theorem setSeq_curline (s : State) (v : Seq) : (s.setSeq v).curline = s.curline := rfl
@[simp] theorem setSeq_xv (s : State) (v : Seq) : (s.setSeq v).xv = s.xv := rfl
@[simp] theorem setSeq_xrs (s : State) (v : Seq) : (s.setSeq v).xrs = s.xrs := rfl
@[simp] theorem setSeq_nib (s : State) (v : Seq) : (s.setSeq v).nib = s.nib := rfl
@[simp] theorem setSeq_image (s : State) (v : Seq) : (s.setSeq v).image = s.image := rfl
@[simp] theorem setSeq_trace (s : State) (v : Seq) : (s.setSeq v).trace = s.trace := rfl
@[simp] theorem setSeq_responses (s : State) (v : Seq) : (s.setSeq v).responses = s.responses := rfl
@[simp] theorem setSeq_moves (s : State) (v : Seq) : (s.setSeq v).moves = s.moves := rfl
@[simp] theorem setSeq_answers (s : State) (v : Seq) : (s.setSeq v).answers = s.answers := rfl
@[simp] theorem setSeq_draws (s : State) (v : Seq) : (s.setSeq v).draws = s.draws := rfl

/-! ### `setCurline` -/

@[simp] theorem setCurline_cfg (s : State) (v : Byte) : (s.setCurline v).cfg = s.cfg := rfl
@[simp] theorem setCurline_bl (s : State) (v : Byte) : (s.setCurline v).bl = s.bl := rfl
@[simp] theorem setCurline_dctl (s : State) (v : Byte) : (s.setCurline v).dctl = s.dctl := rfl
@[simp] theorem setCurline_emode (s : State) (v : Byte) : (s.setCurline v).emode = s.emode := rfl
@[simp] theorem setCurline_seq (s : State) (v : Byte) : (s.setCurline v).seq = s.seq := rfl
@[simp] theorem setCurline_curline (s : State) (v : Byte) : (s.setCurline v).curline = v := rfl
@[simp] theorem setCurline_xv (s : State) (v : Byte) : (s.setCurline v).xv = s.xv := rfl
@[simp] theorem setCurline_xrs (s : State) (v : Byte) : (s.setCurline v).xrs = s.xrs := rfl
@[simp] theorem setCurline_nib (s : State) (v : Byte) : (s.setCurline v).nib = s.nib := rfl
@[simp] theorem setCurline_image (s : State) (v : Byte) : (s.setCurline v).image = s.image := rfl
@[simp] theorem setCurline_trace (s : State) (v : Byte) : (s.setCurline v).trace = s.trace := rfl
@[simp] theorem setCurline_responses (s : State) (v : Byte) : (s.setCurline v).responses = s.responses := rfl
@[simp] theorem setCurline_moves (s : State) (v : Byte) : (s.setCurline v).moves = s.moves := rfl
@[simp] theorem setCurline_answers (s : State) (v : Byte) : (s.setCurline v).answers = s.answers := rfl
@[simp] theorem setCurline_draws (s : State) (v : Byte) : (s.setCurline v).draws = s.draws := rfl

/-! ### `setXv` -/

@[simp] theorem setXv_cfg (s : State) (v : Byte) : (s.setXv v).cfg = s.cfg := rfl
@[simp] theorem setXv_bl (s : State) (v : Byte) : (s.setXv v).bl = s.bl := rfl
@[simp] theorem setXv_dctl (s : State) (v : Byte) : (s.setXv v).dctl = s.dctl := rfl
@[simp] theorem setXv_emode (s : State) (v : Byte) : (s.setXv v).emode = s.emode := rfl
@[simp] theorem setXv_seq (s : State) (v : Byte) : (s.setXv v).seq = s.seq := rfl
@[simp] theorem setXv_curline (s : State) (v : Byte) : (s.setXv v).curline = s.curline := rfl
@[simp] theorem setXv_xv (s : State) (v : Byte) : (s.setXv v).xv = v := rfl
@[simp] theorem setXv_xrs (s : State) (v : Byte) : (s.setXv v).xrs = s.xrs := rfl
@[simp] theorem setXv_nib (s : State) (v : Byte) : (s.setXv v).nib = s.nib := rfl
@[simp] theorem setXv_image (s : State) (v : Byte) : (s.setXv v).image = s.image := rfl
@[simp] theorem setXv_trace (s : State) (v : Byte) : (s.setXv v).trace = s.trace := rfl
@[simp] theorem setXv_responses (s : State) (v : Byte) : (s.setXv v).responses = s.responses := rfl
@[simp] theorem setXv_moves (s : State) (v : Byte) : (s.setXv v).moves = s.moves := rfl
@[simp] theorem setXv_answers (s : State) (v : Byte) : (s.setXv v).answers = s.answers := rfl
@[simp] theorem setXv_draws (s : State) (v : Byte) : (s.setXv v).draws = s.draws := rfl

/-! ### `setNibble` -/

@[simp] theorem setNibble_cfg (s : State) (n : Byte) (r : Bool) : (s.setNibble n r).cfg = s.cfg := rfl
@[simp] theorem setNibble_bl (s : State) (n : Byte) (r : Bool) : (s.setNibble n r).bl = s.bl := rfl
@[simp] theorem setNibble_dctl (s : State) (n : Byte) (r : Bool) : (s.setNibble n r).dctl = s.dctl := rfl
@[simp] theorem setNibble_emode (s : State) (n : Byte) (r : Bool) : (s.setNibble n r).emode = s.emode := rfl
@[simp] theorem setNibble_seq (s : State) (n : Byte) (r : Bool) : (s.setNibble n r).seq = s.seq := rfl
@[simp] theorem setNibble_curline (s : State) (n : Byte) (r : Bool) : (s.setNibble n r).curline = s.curline := rfl
@[simp] theorem setNibble_xv (s : State) (n : Byte) (r : Bool) : (s.setNibble n r).xv = s.xv := rfl
@[simp] theorem setNibble_xrs (s : State) (n : Byte) (r : Bool) : (s.setNibble n r).xrs = r := rfl
@[simp] theorem setNibble_nib (s : State) (n : Byte) (r : Bool) : (s.setNibble n r).nib = n := rfl
@[simp] theorem setNibble_image (s : State) (n : Byte) (r : Bool) : (s.setNibble n r).image = s.image := rfl
@[simp] theorem setNibble_trace (s : State) (n : Byte) (r : Bool) : (s.setNibble n r).trace = s.trace := rfl
@[simp] theorem setNibble_responses (s : State) (n : Byte) (r : Bool) : (s.setNibble n r).responses = s.responses := rfl
@[simp] theorem setNibble_moves (s : State) (n : Byte) (r : Bool) : (s.setNibble n r).moves = s.moves := rfl
@[simp] theorem setNibble_answers (s : State) (n : Byte) (r : Bool) : (s.setNibble n r).answers = s.answers := rfl
@[simp] theorem setNibble_draws (s : State) (n : Byte) (r : Bool) : (s.setNibble n r).draws = s.draws := rfl

/-! ### `setImage` -/

@[simp] theorem setImage_cfg (s : State) (v : BusImage) : (s.setImage v).cfg = s.cfg := rfl
@[simp] theorem setImage_bl (s : State) (v : BusImage) : (s.setImage v).bl = s.bl := rfl
@[simp] theorem setImage_dctl (s : State) (v : BusImage) : (s.setImage v).dctl = s.dctl := rfl
@[simp] theorem setImage_emode (s : State) (v : BusImage) : (s.setImage v).emode = s.emode := rfl
@[simp] theorem setImage_seq (s : State) (v : BusImage) : (s.setImage v).seq = s.seq := rfl
@[simp] theorem setImage_curline (s : State) (v : BusImage) : (s.setImage v).curline = s.curline := rfl
@[simp] theorem setImage_xv (s : State) (v : BusImage) : (s.setImage v).xv = s.xv := rfl
@[simp] theorem setImage_xrs (s : State) (v : BusImage) : (s.setImage v).xrs = s.xrs := rfl
@[simp] theorem setImage_nib (s : State) (v : BusImage) : (s.setImage v).nib = s.nib := rfl
@[simp] theorem setImage_image (s : State) (v : BusImage) : (s.setImage v).image = v := rfl
@[simp] theorem setImage_trace (s : State) (v : BusImage) : (s.setImage v).trace = s.trace := rfl
@[simp] theorem setImage_responses (s : State) (v : BusImage) : (s.setImage v).responses = s.responses := rfl
@[simp] theorem setImage_moves (s : State) (v : BusImage) : (s.setImage v).moves = s.moves := rfl
@[simp] theorem setImage_answers (s : State) (v : BusImage) : (s.setImage v).answers = s.answers := rfl
@[simp] theorem setImage_draws (s : State) (v : BusImage) : (s.setImage v).draws = s.draws := rfl

/-! ### `emit` -/

@[simp] theorem emit_cfg (s : State) (v : Event) : (s.emit v).cfg = s.cfg := rfl
@[simp] theorem emit_bl (s : State) (v : Event) : (s.emit v).bl = s.bl := rfl
@[simp] theorem emit_dctl (s : State) (v : Event) : (s.emit v).dctl = s.dctl := rfl
@[simp] theorem emit_emode (s : State) (v : Event) : (s.emit v).emode = s.emode := rfl
@[simp] theorem emit_seq (s : State) (v : Event) : (s.emit v).seq = s.seq := rfl
@[simp] theorem emit_curline (s : State) (v : Event) : (s.emit v).curline = s.curline := rfl
@[simp] theorem emit_xv (s : State) (v : Event) : (s.emit v).xv = s.xv := rfl
@[simp] theorem emit_xrs (s : State) (v : Event) : (s.emit v).xrs = s.xrs := rfl
@[simp] theorem emit_nib (s : State) (v : Event) : (s.emit v).nib = s.nib := rfl
@[simp] theorem emit_image (s : State) (v : Event) : (s.emit v).image = s.image := rfl
@[simp] theorem emit_trace (s : State) (v : Event) : (s.emit v).trace = s.trace ++ [v] := rfl
@[simp] theorem emit_responses (s : State) (v : Event) : (s.emit v).responses = s.responses := rfl
@[simp] theorem emit_moves (s : State) (v : Event) : (s.emit v).moves = s.moves := rfl
@[simp] theorem emit_answers (s : State) (v : Event) : (s.emit v).answers = s.answers := rfl
@[simp] theorem emit_draws (s : State) (v : Event) : (s.emit v).draws = s.draws := rfl

/-! ### `respond` -/

@[simp] theorem respond_cfg (s : State) (v : Code) : (s.respond v).cfg = s.cfg := rfl
@[simp] theorem respond_bl (s : State) (v : Code) : (s.respond v).bl = s.bl := rfl
@[simp] theorem respond_dctl (s : State) (v : Code) : (s.respond v).dctl = s.dctl := rfl
@[simp] theorem respond_emode (s : State) (v : Code) : (s.respond v).emode = s.emode := rfl
@[simp] theorem respond_seq (s : State) (v : Code) : (s.respond v).seq = s.seq := rfl
@[simp] theorem respond_curline (s : State) (v : Code) : (s.respond v).curline = s.curline := rfl
@[simp] theorem respond_xv (s : State) (v : Code) : (s.respond v).xv = s.xv := rfl
@[simp] theorem respond_xrs (s : State) (v : Code) : (s.respond v).xrs = s.xrs := rfl
@[simp] theorem respond_nib (s : State) (v : Code) : (s.respond v).nib = s.nib := rfl
@[simp] theorem respond_image (s : State) (v : Code) : (s.respond v).image = s.image := rfl
@[simp] theorem respond_trace (s : State) (v : Code) : (s.respond v).trace = s.trace := rfl
@[simp] theorem respond_responses (s : State) (v : Code) : (s.respond v).responses = s.responses ++ [v] := rfl
@[simp] theorem respond_moves (s : State) (v : Code) : (s.respond v).moves = s.moves := rfl
@[simp] theorem respond_answers (s : State) (v : Code) : (s.respond v).answers = s.answers := rfl
@[simp] theorem respond_draws (s : State) (v : Code) : (s.respond v).draws = s.draws := rfl

/-! ### `takeAnswer` -/

@[simp] theorem takeAnswer_cfg (s : State) : (s.takeAnswer).cfg = s.cfg := rfl
@[simp] theorem takeAnswer_bl (s : State) : (s.takeAnswer).bl = s.bl := rfl
@[simp] theorem takeAnswer_dctl (s : State) : (s.takeAnswer).dctl = s.dctl := rfl
@[simp] theorem takeAnswer_emode (s : State) : (s.takeAnswer).emode = s.emode := rfl
@[simp] theorem takeAnswer_seq (s : State) : (s.takeAnswer).seq = s.seq := rfl
@[simp] theorem takeAnswer_curline (s : State) : (s.takeAnswer).curline = s.curline := rfl
@[simp] theorem takeAnswer_xv (s : State) : (s.takeAnswer).xv = s.xv := rfl
@[simp] theorem takeAnswer_xrs (s : State) : (s.takeAnswer).xrs = s.xrs := rfl
@[simp] theorem takeAnswer_nib (s : State) : (s.takeAnswer).nib = s.nib := rfl
@[simp] theorem takeAnswer_image (s : State) : (s.takeAnswer).image = s.image := rfl
@[simp] theorem takeAnswer_trace (s : State) : (s.takeAnswer).trace = s.trace := rfl
@[simp] theorem takeAnswer_responses (s : State) : (s.takeAnswer).responses = s.responses := rfl
@[simp] theorem takeAnswer_moves (s : State) : (s.takeAnswer).moves = s.moves := rfl
@[simp] theorem takeAnswer_answers (s : State) : (s.takeAnswer).answers = s.answers.tail := rfl
@[simp] theorem takeAnswer_draws (s : State) : (s.takeAnswer).draws = s.draws + 1 := rfl

/-! ### `setMoves` -/

@[simp] theorem setMoves_cfg (s : State) (v : List Move) : (s.setMoves v).cfg = s.cfg := rfl
@[simp] theorem setMoves_bl (s : State) (v : List Move) : (s.setMoves v).bl = s.bl := rfl
@[simp] theorem setMoves_dctl (s : State) (v : List Move) : (s.setMoves v).dctl = s.dctl := rfl
@[simp] theorem setMoves_emode (s : State) (v : List Move) : (s.setMoves v).emode = s.emode := rfl
@[simp] theorem setMoves_seq (s : State) (v : List Move) : (s.setMoves v).seq = s.seq := rfl
@[simp] theorem setMoves_curline (s : State) (v : List Move) : (s.setMoves v).curline = s.curline := rfl
@[simp] theorem setMoves_xv (s : State) (v : List Move) : (s.setMoves v).xv = s.xv := rfl
@[simp] theorem setMoves_xrs (s : State) (v : List Move) : (s.setMoves v).xrs = s.xrs := rfl
@[simp] theorem setMoves_nib (s : State) (v : List Move) : (s.setMoves v).nib = s.nib := rfl
@[simp] theorem setMoves_image (s : State) (v : List Move) : (s.setMoves v).image = s.image := rfl
@[simp] theorem setMoves_trace (s : State) (v : List Move) : (s.setMoves v).trace = s.trace := rfl
@[simp] theorem setMoves_responses (s : State) (v : List Move) : (s.setMoves v).responses = s.responses := rfl
@[simp] theorem setMoves_moves (s : State) (v : List Move) : (s.setMoves v).moves = v := rfl
@[simp] theorem setMoves_answers (s : State) (v : List Move) : (s.setMoves v).answers = s.answers := rfl
@[simp] theorem setMoves_draws (s : State) (v : List Move) : (s.setMoves v).draws = s.draws := rfl

/-! ### Power loss (R412) -/

@[simp] theorem powerLoss_cfg (s : State) : (powerLoss s).cfg = s.cfg := rfl
@[simp] theorem powerLoss_bl (s : State) : (powerLoss s).bl = s.cfg.blInit := rfl
@[simp] theorem powerLoss_dctl (s : State) : (powerLoss s).dctl = 0b000#3 := rfl
@[simp] theorem powerLoss_emode (s : State) : (powerLoss s).emode = 0b00#2 := rfl
@[simp] theorem powerLoss_seq (s : State) : (powerLoss s).seq = .powerUp := rfl
@[simp] theorem powerLoss_curline (s : State) : (powerLoss s).curline = 0#8 := rfl
@[simp] theorem powerLoss_xv (s : State) : (powerLoss s).xv = 0#8 := rfl
@[simp] theorem powerLoss_xrs (s : State) : (powerLoss s).xrs = false := rfl
@[simp] theorem powerLoss_nib (s : State) : (powerLoss s).nib = 0#8 := rfl
@[simp] theorem powerLoss_image (s : State) : (powerLoss s).image = BusImage.allUnknown := rfl
@[simp] theorem powerLoss_trace (s : State) : (powerLoss s).trace = s.trace := rfl
@[simp] theorem powerLoss_responses (s : State) : (powerLoss s).responses = s.responses := rfl
@[simp] theorem powerLoss_moves (s : State) : (powerLoss s).moves = s.moves := rfl
@[simp] theorem powerLoss_answers (s : State) : (powerLoss s).answers = s.answers := rfl
@[simp] theorem powerLoss_draws (s : State) : (powerLoss s).draws = s.draws := rfl

end Sys2Proof.Machine.State
end

