-- ==== Sys2Proof/Laws/Ops.lean ====
section
/-! SUPPORT. What the shared operations can do, said once: a bus program either runs whole, every write answered `Ok`, or
it stops at its first failed write (`Runs`), and programs compose (`Runs.andThen`). -/

namespace Sys2Proof.Laws

open Sys2Proof.Machine Sys2Proof.Safety

/-! ## Events of a bus program -/

/-- The event of a primitive that goes through. -/
def primEvent : Prim → Event
  | .write w => .write w
  | .waitUs n => .waitUs n
  | .waitMs n => .waitMs n

/-- The events of a bus program that goes through. -/
def progEvents (ps : List Prim) : List Event := ps.map primEvent

/-- `s` after the events `es`, without a response. -/
def drove (s : State) (es : List Event) : State :=
  { s with
    image := es.foldl imageAfter s.image
    trace := s.trace ++ es
    answers := s.answers.drop (attempts es)
    draws := s.draws + attempts es }

theorem finished_eq_respond (s : State) (es : List Event) (c : Code) : finished s es c = (drove s es).respond c := rfl

@[simp] theorem attempts_append (es fs : List Event) : attempts (es ++ fs) = attempts es + attempts fs := by
  induction es with
  | nil => simp [attempts]
  | cons e es ih => cases e <;> simp [attempts, ih] <;> omega

@[simp] theorem progEvents_append (ps qs : List Prim) : progEvents (ps ++ qs) = progEvents ps ++ progEvents qs := by
  simp [progEvents]

theorem drove_append (s : State) (es fs : List Event) : drove (drove s es) fs = drove s (es ++ fs) := by
  simp [drove, Nat.add_assoc]

@[simp] theorem drove_nil (s : State) : drove s [] = s := by
  simp [drove, attempts]

theorem oracle_drove (s : State) (es : List Event) (j : Nat) :
    oracle (drove s es) j = oracle s (attempts es + j) := by
  simp [oracle, drove, Nat.add_assoc]

/-- `cutAt` inside the first of two programs. -/
theorem cutAt_append_left (ps : List Prim) (es : List Event) (k : Nat) (h : k < attempts (progEvents ps)) :
    cutAt k (progEvents ps ++ es) = cutAt k (progEvents ps) := by
  induction ps generalizing k with
  | nil => simp [progEvents, attempts] at h
  | cons p ps ih =>
    cases p <;> cases k <;> simp_all [progEvents, primEvent, cutAt, attempts]

/-- `cutAt` past the first of two programs. -/
theorem cutAt_append_right (ps : List Prim) (es : List Event) (k : Nat) :
    cutAt (attempts (progEvents ps) + k) (progEvents ps ++ es) = progEvents ps ++ cutAt k es := by
  induction ps generalizing k with
  | nil => simp [progEvents, attempts]
  | cons p ps ih =>
    have ih' := ih k
    cases p with
    | write w =>
      simp only [progEvents, List.map_cons, primEvent, attempts, List.cons_append] at ih' ⊢
      rw [Nat.add_right_comm]
      simp [cutAt, ih']
    | waitUs n =>
      simp only [progEvents, List.map_cons, primEvent, attempts, List.cons_append, cutAt] at ih' ⊢
      rw [ih']
    | waitMs n =>
      simp only [progEvents, List.map_cons, primEvent, attempts, List.cons_append, cutAt] at ih' ⊢
      rw [ih']

/-- The new events of a request that left the trace alone until it ended. -/
theorem newEvents_finished {s r : State} (h : r.trace = s.trace) (es : List Event) (code : Code) (xv : Byte)
    (xrs : Bool) (nib : Byte) : newEvents s (finished (withWork r xv xrs nib) es code) = es := by
  show List.drop _ (r.trace ++ es) = es
  rw [h]
  exact List.drop_left

/-! ## The two ways a bus program ends -/

/-- Either the next `n` bus writes all succeed, or there is a first one that fails. -/
theorem allOk_or_failsAfter (n : Nat) (s : State) : AllOk n s ∨ ∃ k, k < n ∧ FailsAfter k s := by
  induction n with
  | zero => exact .inl fun j h => by omega
  | succ n ih =>
    rcases ih with h | ⟨k, hk, hf⟩
    · cases ho : oracle s n with
      | ok =>
        refine .inl fun j hj => ?_
        rcases Nat.lt_succ_iff_lt_or_eq.mp hj with h1 | rfl
        · exact h j h1
        · exact ho
      | fail => exact .inr ⟨n, by omega, h, ho⟩
    · exact .inr ⟨k, by omega, hf⟩

/-- `r` is what the bus program `ps` comes to in `s`, up to the working registers. -/
def Runs (ps : List Prim) (s : State) (r : Run) : Prop :=
  ∃ xv xrs nib,
    (AllOk (attempts (progEvents ps)) s ∧ r = .ok (withWork (drove s (progEvents ps)) xv xrs nib)) ∨
    (∃ k, k < attempts (progEvents ps) ∧ FailsAfter k s ∧
      r = .raise (withWork (drove s (cutAt k (progEvents ps))) xv xrs nib) .busWriteFailure)

theorem withWork_self (s : State) : withWork s s.xv s.xrs s.nib = s := rfl

theorem drove_withWork (s : State) (es : List Event) (a : Byte) (b : Bool) (c : Byte) :
    drove (withWork s a b c) es = withWork (drove s es) a b c := rfl

theorem withWork_withWork (s : State) (a a' : Byte) (b b' : Bool) (c c' : Byte) :
    withWork (withWork s a b c) a' b' c' = withWork s a' b' c' := rfl

theorem oracle_withWork (s : State) (a : Byte) (b : Bool) (c : Byte) (j : Nat) :
    oracle (withWork s a b c) j = oracle s j := rfl

theorem oracle_zero (s : State) : oracle s 0 = s.answer := by
  simp [oracle, State.answer]

/-- One bus write: its event and one answer used up, or `Failed` of it and the error. -/
theorem busWrite_eq (w : BusWrite) (s : State) :
    busWrite w s = match oracle s 0 with
      | .ok => .ok (drove s [.write w])
      | .fail => .raise (drove s [.failed w]) .busWriteFailure := by
  rw [oracle_zero]
  unfold busWrite
  cases s.answer <;>
    simp [Run.ok, Run.raise, drove, State.setImage, State.emit, State.takeAnswer, attempts]

/-- `drive` runs its program, in the state it is given, without touching the working registers. -/
theorem drive_cases (ps : List Prim) (s : State) :
    (AllOk (attempts (progEvents ps)) s ∧ drive ps s = .ok (drove s (progEvents ps))) ∨
    (∃ k, k < attempts (progEvents ps) ∧ FailsAfter k s ∧
      drive ps s = .raise (drove s (cutAt k (progEvents ps))) .busWriteFailure) := by
  induction ps generalizing s with
  | nil => exact .inl ⟨fun j h => by simp [progEvents, attempts] at h, by simp [drive, progEvents]⟩
  | cons p ps ih =>
    cases p with
    | write w =>
      have hb := busWrite_eq w s
      have hev : progEvents (.write w :: ps) = .write w :: progEvents ps := rfl
      have hat : attempts (progEvents (.write w :: ps)) = attempts (progEvents ps) + 1 := rfl
      have hsh : ∀ j, oracle (drove s [.write w]) j = oracle s (j + 1) := fun j => by
        rw [oracle_drove]; simp [attempts, Nat.add_comm]
      cases ho : oracle s 0 with
      | fail =>
        rw [ho] at hb
        exact .inr ⟨0, by omega, ⟨fun j h => by omega, ho⟩, by
          simp [drive, hb, hev, cutAt, Run.andThen, Run.raise]⟩
      | ok =>
        rw [ho] at hb
        have hd : drive (.write w :: ps) s = drive ps (drove s [.write w]) := by
          simp [drive, hb, Run.andThen, Run.ok]
        rcases ih (drove s [.write w]) with ⟨ha, hr⟩ | ⟨k, hk, ⟨ha, hf⟩, hr⟩
        · refine .inl ⟨fun j hj => ?_, ?_⟩
          · cases j with
            | zero => exact ho
            | succ j => rw [← hsh]; exact ha j (by omega)
          · rw [hd, hr, drove_append, hev]; rfl
        · refine .inr ⟨k + 1, by omega, ⟨fun j hj => ?_, by rw [← hsh]; exact hf⟩, ?_⟩
          · cases j with
            | zero => exact ho
            | succ j => rw [← hsh]; exact ha j (by omega)
          · rw [hd, hr, drove_append, hev]; rfl
    | waitUs n =>
      have hd : drive (.waitUs n :: ps) s = drive ps (drove s [.waitUs n]) := by
        simp [drive, drove, State.emit, attempts, imageAfter]
      have hsh : ∀ j, oracle (drove s [.waitUs n]) j = oracle s j := fun j => by
        rw [oracle_drove]; simp [attempts]
      rcases ih (drove s [.waitUs n]) with ⟨ha, hr⟩ | ⟨k, hk, ⟨ha, hf⟩, hr⟩
      · exact .inl ⟨fun j hj => by rw [← hsh]; exact ha j hj, by rw [hd, hr, drove_append]; rfl⟩
      · refine .inr ⟨k, hk, ⟨fun j hj => by rw [← hsh]; exact ha j hj, by rw [← hsh]; exact hf⟩, ?_⟩
        rw [hd, hr, drove_append]; cases k <;> rfl
    | waitMs n =>
      have hd : drive (.waitMs n :: ps) s = drive ps (drove s [.waitMs n]) := by
        simp [drive, drove, State.emit, attempts, imageAfter]
      have hsh : ∀ j, oracle (drove s [.waitMs n]) j = oracle s j := fun j => by
        rw [oracle_drove]; simp [attempts]
      rcases ih (drove s [.waitMs n]) with ⟨ha, hr⟩ | ⟨k, hk, ⟨ha, hf⟩, hr⟩
      · exact .inl ⟨fun j hj => by rw [← hsh]; exact ha j hj, by rw [hd, hr, drove_append]; rfl⟩
      · refine .inr ⟨k, hk, ⟨fun j hj => by rw [← hsh]; exact ha j hj, by rw [← hsh]; exact hf⟩, ?_⟩
        rw [hd, hr, drove_append]; cases k <;> rfl

theorem drive_runs (ps : List Prim) (s : State) : Runs ps s (drive ps s) :=
  ⟨s.xv, s.xrs, s.nib, drive_cases ps s⟩

/-- The working registers of the starting state do not matter to how a program ends. -/
theorem Runs.of_withWork {ps : List Prim} {s : State} {r : Run} {a : Byte} {b : Bool} {c : Byte}
    (h : Runs ps (withWork s a b c) r) : Runs ps s r := h

/-- With every write answered `Ok` a program runs whole. -/
theorem Runs.completes {ps : List Prim} {s : State} {r : Run} (h : Runs ps s r)
    (hok : AllOk (attempts (progEvents ps)) s) :
    ∃ xv xrs nib, r = .ok (withWork (drove s (progEvents ps)) xv xrs nib) := by
  obtain ⟨a, b, c, ⟨-, he⟩ | ⟨k, hk, ⟨-, hf⟩, -⟩⟩ := h
  · exact ⟨a, b, c, he⟩
  · have := hok k hk; rw [hf] at this; cases this

/-- With its write `k` the first to fail, a program stops there. -/
theorem Runs.fails {ps : List Prim} {s : State} {r : Run} {k : Nat} (h : Runs ps s r)
    (hk : k < attempts (progEvents ps)) (hf : FailsAfter k s) :
    ∃ xv xrs nib, r = .raise (withWork (drove s (cutAt k (progEvents ps))) xv xrs nib) .busWriteFailure := by
  obtain ⟨a, b, c, ⟨hok, -⟩ | ⟨k', hk', ⟨ha, hf'⟩, he⟩⟩ := h
  · have := hok k hk; rw [hf.2] at this; cases this
  · rcases Nat.lt_trichotomy k k' with hlt | rfl | hlt
    · have := ha k hlt; rw [hf.2] at this; cases this
    · exact ⟨a, b, c, he⟩
    · have := hf.1 k' hlt; rw [hf'] at this; cases this

/-- The empty program. -/
theorem Runs.nil (s : State) : Runs [] s (.ok s) := drive_runs [] s

/-- Two programs in sequence: the second starts where the first has come to, whatever the working registers hold. -/
theorem Runs.andThen {ps qs : List Prim} {s : State} {r : Run} {f : State → Run} (hr : Runs ps s r)
    (hf : ∀ xv xrs nib, Runs qs (withWork (drove s (progEvents ps)) xv xrs nib)
      (f (withWork (drove s (progEvents ps)) xv xrs nib))) :
    Runs (ps ++ qs) s (r.andThen f) := by
  obtain ⟨a, b, c, ⟨hok, rfl⟩ | ⟨k, hk, hfail, rfl⟩⟩ := hr
  · have hsh : ∀ j, oracle (withWork (drove s (progEvents ps)) a b c) j =
        oracle s (attempts (progEvents ps) + j) := fun j => oracle_drove s _ j
    obtain ⟨a', b', c', ⟨hok', he⟩ | ⟨k, hk, ⟨ha, hfk⟩, he⟩⟩ := hf a b c
    · refine ⟨a', b', c', .inl ⟨fun j hj => ?_, ?_⟩⟩
      · by_cases h : j < attempts (progEvents ps)
        · exact hok j h
        · have := hok' (j - attempts (progEvents ps)) (by simp at hj; omega)
          rwa [hsh, Nat.add_sub_cancel' (by omega)] at this
      · simp only [Run.andThen, Run.ok, if_true] at he ⊢
        rw [he, drove_withWork, drove_append, withWork_withWork, progEvents_append]
    · refine ⟨a', b', c', .inr ⟨attempts (progEvents ps) + k, by simp; omega, ⟨fun j hj => ?_, ?_⟩, ?_⟩⟩
      · by_cases h : j < attempts (progEvents ps)
        · exact hok j h
        · have := ha (j - attempts (progEvents ps)) (by omega)
          rwa [hsh, Nat.add_sub_cancel' (by omega)] at this
      · rwa [hsh] at hfk
      · simp only [Run.andThen, Run.ok, if_true] at he ⊢
        rw [he, drove_withWork, drove_append, withWork_withWork, progEvents_append, cutAt_append_right]
  · refine ⟨a, b, c, .inr ⟨k, by simp; omega, hfail, ?_⟩⟩
    rw [progEvents_append, cutAt_append_left ps _ k hk]
    simp [Run.andThen, Run.raise]

/-! ## Nibbles, sends and strings -/

/-- The bus program of one transfer (R158). -/
def sendPrims (c : Config) (bl : Bool) (v : Byte) (rs : Bool) : List Prim :=
  nibblePrims c bl (highNibble v) rs ++ nibblePrims c bl (lowNibble v) rs

/-- The bus program of the DATA transfers of a string (R77). -/
def dataPrims (c : Config) (bl : Bool) (str : List Byte) : List Prim := str.flatMap fun v => sendPrims c bl v true

theorem nibbleTx_runs (nib : Byte) (rs : Bool) (s : State) :
    Runs (nibblePrims s.cfg s.bl nib rs) s (nibbleTx nib rs s) :=
  Runs.of_withWork (a := s.xv) (b := rs) (c := nib) (drive_runs _ _)

theorem send_runs (v : Byte) (rs : Bool) (s : State) : Runs (sendPrims s.cfg s.bl v rs) s (send v rs s) :=
  Runs.of_withWork (a := v) (b := s.xrs) (c := s.nib)
    ((nibbleTx_runs (highNibble v) rs (s.setXv v)).andThen fun a b c =>
      nibbleTx_runs (lowNibble v) rs (withWork (drove (s.setXv v) _) a b c))

theorem sendData_runs (str : List Byte) (s : State) : Runs (dataPrims s.cfg s.bl str) s (sendData str s) := by
  induction str generalizing s with
  | nil => exact Runs.nil s
  | cons v vs ih => exact (send_runs v true s).andThen fun a b c => ih (withWork (drove s _) a b c)

theorem waitMs_runs (n : Half) (s : State) : Runs [.waitMs n] s (waitMs n s) := drive_runs _ s

theorem waitUs_runs (n : Half) (s : State) : Runs [.waitUs n] s (waitUs n s) := drive_runs _ s

theorem clearAndWait_runs (s : State) :
    Runs (sendPrims s.cfg s.bl 0x01#8 false ++ [.waitMs s.cfg.tClearMs]) s (clearAndWait s) :=
  (send_runs _ _ s).andThen fun _ _ _ => waitMs_runs _ _

theorem homeAndWait_runs (x : BitVec 1) (s : State) :
    Runs (sendPrims s.cfg s.bl (returnHomeByte x) false ++ [.waitMs s.cfg.tHomeMs]) s (homeAndWait x s) :=
  (send_runs _ _ s).andThen fun _ _ _ => waitMs_runs _ _

/-! ## The programs against the event lists of the spec -/

theorem exb_low (bl : Bool) (nib : Byte) (rs : Bool) :
    exb bl nib rs false = (nib &&& 0xF0#8) ||| (if bl then 0x08#8 else 0#8) ||| (if rs then 0x01#8 else 0#8) := by
  cases bl <;> cases rs <;> simp [exb, flagBit]

theorem exb_high (bl : Bool) (nib : Byte) (rs : Bool) : exb bl nib rs true = exb bl nib rs false ||| 0x04#8 := by
  cases bl <;> cases rs <;> simp [exb, flagBit, BitVec.or_assoc]

theorem nibblePrims_events (c : Config) (bl : Bool) (nib : Byte) (rs : Bool) :
    progEvents (nibblePrims c bl nib rs) = nibbleEvents c bl nib rs := by
  cases hv : c.variant <;>
    simp [progEvents, nibblePrims, nibbleEvents, pulseExpander, pulseDiscrete, primEvent, memWrite, lineWrite, hv,
      byteEvent, lineEvent, w1, w50, exb_high, exb_low]

theorem nibbleEvents_mask (c : Config) (bl : Bool) (nib : Byte) (rs : Bool) :
    nibbleEvents c bl (nib &&& 0xF0#8) rs = nibbleEvents c bl nib rs := by
  cases hv : c.variant <;> simp [nibbleEvents, hv, BitVec.and_assoc]

theorem sendPrims_events (c : Config) (bl : Bool) (v : Byte) (rs : Bool) :
    progEvents (sendPrims c bl v rs) = sendEvents c bl v rs := by
  simp [sendPrims, sendEvents, nibblePrims_events, highNibble, lowNibble, nibbleEvents_mask]

theorem dataPrims_events (c : Config) (bl : Bool) (str : List Byte) :
    progEvents (dataPrims c bl str) = dataEvents c bl str := by
  induction str with
  | nil => rfl
  | cons v vs ih =>
    simp only [dataPrims, dataEvents, List.flatMap_cons, progEvents_append, sendPrims_events] at ih ⊢
    rw [ih]

/-! ## How many bus writes they are -/

theorem attempts_nibbleEvents (c : Config) (bl : Bool) (nib : Byte) (rs : Bool) :
    attempts (nibbleEvents c bl nib rs) = nibbleWrites c := by
  cases h : c.variant <;> simp [nibbleEvents, nibbleWrites, h, attempts, byteEvent, lineEvent, w1, w50]

theorem attempts_sendEvents (c : Config) (bl : Bool) (v : Byte) (rs : Bool) :
    attempts (sendEvents c bl v rs) = 2 * nibbleWrites c := by
  simp [sendEvents, attempts_nibbleEvents]
  omega

theorem attempts_dataEvents (c : Config) (bl : Bool) (str : List Byte) :
    attempts (dataEvents c bl str) = 2 * nibbleWrites c * str.length := by
  induction str with
  | nil => simp [dataEvents, attempts]
  | cons v vs ih =>
    simp only [dataEvents, List.flatMap_cons, attempts_append, attempts_sendEvents, List.length_cons] at ih ⊢
    rw [ih]
    ring

/-! ## How long they wait at least (R425) -/

@[simp] theorem totalMicros_append (es fs : List Event) : totalMicros (es ++ fs) = totalMicros es + totalMicros fs := by
  simp [totalMicros]

theorem totalMicros_nibbleEvents (c : Config) (bl : Bool) (nib : Byte) (rs : Bool) :
    totalMicros (nibbleEvents c bl nib rs) = c.tEnHighUs.toNat + c.tEnSettleUs.toNat := by
  cases h : c.variant <;> simp [nibbleEvents, h, totalMicros, leastMicros, byteEvent, lineEvent, w1, w50]

theorem totalMicros_sendEvents (c : Config) (bl : Bool) (v : Byte) (rs : Bool) :
    totalMicros (sendEvents c bl v rs) = 2 * (c.tEnHighUs.toNat + c.tEnSettleUs.toNat) := by
  simp only [sendEvents, totalMicros_append, totalMicros_nibbleEvents]
  omega

/-! ## A send that completes, and one that fails -/

/-- A send with every write answered `Ok`. -/
theorem send_completes (v : Byte) (rs : Bool) (s : State) (h : AllOk (2 * nibbleWrites s.cfg) s) :
    ∃ xv xrs nib, send v rs s = .ok (withWork (drove s (sendEvents s.cfg s.bl v rs)) xv xrs nib) := by
  have := (send_runs v rs s).completes (by rw [sendPrims_events, attempts_sendEvents]; exact h)
  rwa [sendPrims_events] at this

/-- A send whose write `k` fails. -/
theorem send_fails (v : Byte) (rs : Bool) (s : State) (k : Nat) (hk : k < 2 * nibbleWrites s.cfg)
    (h : FailsAfter k s) :
    ∃ xv xrs nib, send v rs s =
      .raise (withWork (drove s (cutAt k (sendEvents s.cfg s.bl v rs))) xv xrs nib) .busWriteFailure := by
  have := (send_runs v rs s).fails (by rw [sendPrims_events, attempts_sendEvents]; exact hk) h
  rwa [sendPrims_events] at this

/-! ## Cursor addresses -/

/-- With column 0 no address sum overflows (R281): the largest row offset is 0x54. -/
theorem cursorTarget_zero_fits (c : Config) (row : Byte) : cursorTarget c 0#8 row ≠ .overflow := by
  unfold cursorTarget
  split
  · simp
  · rename_i h
    split
    · simp
    · rename_i offsets ho
      have : offsets.getD row.toNat 0 ≤ 0x54 := by
        unfold rowOffsets at ho
        split at ho <;> simp at ho <;> subst ho
        all_goals
          rcases row.toNat with _ | _ | _ | _ | n <;> simp
      have h0 : (0#8).toNat = 0 := rfl
      rw [h0, if_neg (by omega)]
      simp

end Sys2Proof.Laws
end

