-- ==== Sys2Proof/Laws/Requests.lean ====
section
/-! SUPPORT. What the shared parts of the larger requests can do, said once: the cursor addresses against the row-offset
table, `set_cursor` and the loop of PRINT_LONG_STR (`RunsLine`), and the sequencer (`runSequencer_cases`). -/

namespace Sys2Proof.Laws

open Sys2Proof.Machine Sys2Proof.Safety

/-! ## Cursor targets -/

theorem rowOffsets_eq_none (rows : Byte) : rowOffsets rows = none ↔ ¬ (rows = 1#8 ∨ rows = 2#8 ∨ rows = 4#8) := by
  unfold rowOffsets
  split <;> simp_all [← BitVec.toNat_inj]

/-- The row-offset table read as triples (R73). -/
theorem mem_rowOffsetTable (rows row : Byte) (off : Nat) :
    (rows, row, off) ∈ rowOffsetTable ↔
      row < rows ∧ ∃ offsets, rowOffsets rows = some offsets ∧ offsets.getD row.toNat 0 = off := by
  constructor
  · intro h
    have entry : ∀ e ∈ rowOffsetTable,
        e.2.1 < e.1 ∧ (rowOffsets e.1).map (fun offsets => offsets.getD e.2.1.toNat 0) = some e.2.2 := by decide
    obtain ⟨hlt, hoff⟩ := entry _ h
    exact ⟨hlt, Option.map_eq_some_iff.mp hoff⟩
  · rintro ⟨hlt, offsets, ho, hoff⟩
    have hs : rows = 1#8 ∨ rows = 2#8 ∨ rows = 4#8 := by
      by_contra hn
      rw [(rowOffsets_eq_none rows).mpr hn] at ho
      cases ho
    have hr : row.toNat = 0 ∨ row.toNat = 1 ∨ row.toNat = 2 ∨ row.toNat = 3 := by
      rcases hs with rfl | rfl | rfl <;> simp [BitVec.lt_def] at hlt <;> omega
    have hrow : row = 0#8 ∨ row = 1#8 ∨ row = 2#8 ∨ row = 3#8 := by
      rcases hr with h | h | h | h
      · exact .inl (BitVec.eq_of_toNat_eq h)
      · exact .inr (.inl (BitVec.eq_of_toNat_eq h))
      · exact .inr (.inr (.inl (BitVec.eq_of_toNat_eq h)))
      · exact .inr (.inr (.inr (BitVec.eq_of_toNat_eq h)))
    rcases hs with rfl | rfl | rfl <;> cases ho <;> rcases hrow with rfl | rfl | rfl | rfl <;> subst hoff <;>
      first | (exfalso; revert hlt; decide) | decide

/-- Where the sum fits, the target is the address (R280). -/
theorem cursorTarget_address {c : Config} {col row : Byte} {off : Nat} (h : (c.rows, row, off) ∈ rowOffsetTable)
    (hs : col.toNat + off ≤ 0xFF) : cursorTarget c col row = .address (BitVec.ofNat 8 (col.toNat + off)) := by
  obtain ⟨hlt, offsets, ho, rfl⟩ := (mem_rowOffsetTable _ _ _).mp h
  unfold cursorTarget
  rw [if_neg (by simpa using hlt), ho]
  simp only
  rw [if_neg (by omega)]

/-- The target overflows exactly where the row is mapped and the sum exceeds 0xFF (R281). -/
theorem cursorTarget_overflow (c : Config) (col row : Byte) :
    cursorTarget c col row = .overflow ↔ ∃ off, (c.rows, row, off) ∈ rowOffsetTable ∧ 0xFF < col.toNat + off := by
  simp only [mem_rowOffsetTable]
  unfold cursorTarget
  constructor
  · intro h
    split at h
    · cases h
    · rename_i hle
      split at h
      · cases h
      · rename_i offsets ho
        split at h
        · rename_i hgt
          exact ⟨_, ⟨by simpa using hle, offsets, ho, rfl⟩, hgt⟩
        · cases h
  · rintro ⟨off, ⟨hlt, offsets, ho, rfl⟩, hgt⟩
    rw [if_neg (by simpa using hlt), ho]
    simp only
    rw [if_pos hgt]

theorem cursorTarget_row {c : Config} {col row : Byte} (h : c.rows ≤ row) :
    cursorTarget c col row = .rowOutOfBounds := by
  unfold cursorTarget
  rw [if_pos h]

theorem cursorTarget_geometry {c : Config} {col row : Byte} (h : row < c.rows) (hs : ¬ supportedRows c) :
    cursorTarget c col row = .unsupportedGeometry := by
  unfold cursorTarget
  rw [if_neg (by simpa using h), (rowOffsets_eq_none c.rows).mpr hs]

/-! ## Programs that write `CURLINE` -/

/-- `r` is what the bus program `ps` comes to in `s`, up to the working registers, where the request leaves `CURLINE` at
`line` if every write is answered `Ok`, and at `lineAt k` if write `k` is the first to fail. -/
def RunsLine (ps : List Prim) (s : State) (line : Byte) (lineAt : Nat → Byte) (r : Run) : Prop :=
  ∃ xv xrs nib,
    (AllOk (attempts (progEvents ps)) s ∧
      r = .ok (withWork (drove (s.setCurline line) (progEvents ps)) xv xrs nib)) ∨
    (∃ k, k < attempts (progEvents ps) ∧ FailsAfter k s ∧
      r = .raise (withWork (drove (s.setCurline (lineAt k)) (cutAt k (progEvents ps))) xv xrs nib) .busWriteFailure)

/-- A program that leaves `CURLINE` alone. -/
theorem Runs.toLine {ps : List Prim} {s : State} {r : Run} (h : Runs ps s r) :
    RunsLine ps s s.curline (fun _ => s.curline) r := h

/-- A program followed by a write of `CURLINE`. -/
theorem Runs.thenLine {ps : List Prim} {s : State} {r : Run} (line : Byte) (h : Runs ps s r) :
    RunsLine ps s line (fun _ => s.curline) (r.andThen fun t => .ok (t.setCurline line)) := by
  obtain ⟨a, b, c, ⟨hok, rfl⟩ | ⟨k, hk, hf, rfl⟩⟩ := h
  · exact ⟨a, b, c, .inl ⟨hok, rfl⟩⟩
  · exact ⟨a, b, c, .inr ⟨k, hk, hf, rfl⟩⟩

theorem RunsLine.congr {ps : List Prim} {s : State} {line : Byte} {f g : Nat → Byte} {r : Run}
    (h : RunsLine ps s line f r) (hfg : ∀ k, f k = g k) : RunsLine ps s line g r := by
  rwa [← funext hfg]

/-- Two programs in sequence: a failure in the second leaves what the second says of its own writes. -/
theorem RunsLine.andThen {ps qs : List Prim} {s : State} {l m : Byte} {f₁ f₂ : Nat → Byte} {r : Run} {f : State → Run}
    (hr : RunsLine ps s l f₁ r)
    (hf : ∀ xv xrs nib, RunsLine qs (withWork (drove (s.setCurline l) (progEvents ps)) xv xrs nib) m f₂
      (f (withWork (drove (s.setCurline l) (progEvents ps)) xv xrs nib))) :
    RunsLine (ps ++ qs) s m
      (fun k => if k < attempts (progEvents ps) then f₁ k else f₂ (k - attempts (progEvents ps))) (r.andThen f) := by
  obtain ⟨a, b, c, ⟨hok, rfl⟩ | ⟨k, hk, hfail, rfl⟩⟩ := hr
  · have hsh : ∀ j, oracle (withWork (drove (s.setCurline l) (progEvents ps)) a b c) j =
        oracle s (attempts (progEvents ps) + j) := fun j => oracle_drove s _ j
    obtain ⟨a', b', c', ⟨hok', he⟩ | ⟨k, hk, ⟨ha, hfk⟩, he⟩⟩ := hf a b c
    · refine ⟨a', b', c', .inl ⟨fun j hj => ?_, ?_⟩⟩
      · by_cases h : j < attempts (progEvents ps)
        · exact hok j h
        · have := hok' (j - attempts (progEvents ps)) (by simp at hj; omega)
          rwa [hsh, Nat.add_sub_cancel' (by omega)] at this
      · simp only [Run.andThen, Run.ok, if_true] at he ⊢
        rw [he, progEvents_append, ← drove_append]
        rfl
    · refine ⟨a', b', c', .inr ⟨attempts (progEvents ps) + k, by simp; omega, ⟨fun j hj => ?_, ?_⟩, ?_⟩⟩
      · by_cases h : j < attempts (progEvents ps)
        · exact hok j h
        · have := ha (j - attempts (progEvents ps)) (by omega)
          rwa [hsh, Nat.add_sub_cancel' (by omega)] at this
      · rwa [hsh] at hfk
      · simp only [Run.andThen, Run.ok, if_true] at he ⊢
        rw [he, progEvents_append, cutAt_append_right, ← drove_append, if_neg (by omega), Nat.add_sub_cancel_left]
        rfl
  · refine ⟨a, b, c, .inr ⟨k, by simp; omega, hfail, ?_⟩⟩
    rw [progEvents_append, cutAt_append_left ps _ k hk]
    simp [Run.andThen, Run.raise, hk]

theorem RunsLine.completes {ps : List Prim} {s : State} {l : Byte} {lineAt : Nat → Byte} {r : Run}
    (h : RunsLine ps s l lineAt r) (hok : AllOk (attempts (progEvents ps)) s) :
    ∃ xv xrs nib, r = .ok (withWork (drove (s.setCurline l) (progEvents ps)) xv xrs nib) := by
  obtain ⟨a, b, c, ⟨-, he⟩ | ⟨k, hk, ⟨-, hf⟩, -⟩⟩ := h
  · exact ⟨a, b, c, he⟩
  · have := hok k hk; rw [hf] at this; cases this

theorem RunsLine.fails {ps : List Prim} {s : State} {l : Byte} {lineAt : Nat → Byte} {r : Run} {k : Nat}
    (h : RunsLine ps s l lineAt r) (hk : k < attempts (progEvents ps)) (hf : FailsAfter k s) :
    ∃ xv xrs nib,
      r = .raise (withWork (drove (s.setCurline (lineAt k)) (cutAt k (progEvents ps))) xv xrs nib) .busWriteFailure := by
  obtain ⟨a, b, c, ⟨hok, -⟩ | ⟨k', hk', ⟨ha, hf'⟩, he⟩⟩ := h
  · have := hok k hk; rw [hf.2] at this; cases this
  · rcases Nat.lt_trichotomy k k' with hlt | rfl | hlt
    · have := ha k hlt; rw [hf.2] at this; cases this
    · exact ⟨a, b, c, he⟩
    · have := hf.1 k' hlt; rw [hf'] at this; cases this

/-- `set_cursor` on an address that fits. -/
theorem setCursor_runs {col row addr : Byte} {s : State} (h : cursorTarget s.cfg col row = .address addr) :
    RunsLine (sendPrims s.cfg s.bl (setCursorCommand addr) false) s row (fun _ => s.curline) (setCursor col row s) := by
  unfold setCursor
  rw [h]
  exact (send_runs _ _ s).thenLine row

/-! ## PRINT_LONG_STR -/

/-- The address command of a row, from the row-offset table (R73, R280). -/
def rowCommand (row : Nat) : Byte := 0x80#8 ||| BitVec.ofNat 8 ([0x00, 0x40, 0x14, 0x54].getD row 0)

/-- On a supported geometry the target of `(0, row)` is that row's address. -/
theorem cursorTarget_zero {c : Config} {row : Byte} (hs : supportedRows c) (h : row < c.rows) :
    cursorTarget c 0#8 row = .address (BitVec.ofNat 8 ([0x00, 0x40, 0x14, 0x54].getD row.toNat 0)) := by
  have hr : row.toNat < c.rows.toNat := h
  have hm : (c.rows, row, [0x00, 0x40, 0x14, 0x54].getD row.toNat 0) ∈ rowOffsetTable := by
    rw [mem_rowOffsetTable]
    refine ⟨h, ?_⟩
    rcases hs with hc | hc | hc <;> rw [hc] at hr ⊢
    · refine ⟨_, rfl, ?_⟩
      have : row.toNat = 0 := by simpa using hr
      simp [this]
    · refine ⟨_, rfl, ?_⟩
      have : row.toNat = 0 ∨ row.toNat = 1 := by simp at hr; omega
      rcases this with h | h <;> simp [h]
    · exact ⟨_, rfl, rfl⟩
  have hle : (0#8).toNat + [0x00, 0x40, 0x14, 0x54].getD row.toNat 0 ≤ 0xFF := by
    rcases row.toNat with _ | _ | _ | _ | n <;> simp
  have := cursorTarget_address hm hle
  simpa using this

/-- The bus program of the loop of PRINT_LONG_STR from index `i`. -/
def longPrims (c : Config) (bl : Bool) : Nat → List Byte → List Prim
  | _, [] => []
  | i, ch :: rest =>
    (if startsSegment c i then sendPrims c bl (rowCommand (wrapRow c i).toNat) false else [])
      ++ (sendPrims c bl ch true ++ longPrims c bl (i + 1) rest)

/-- `CURLINE` after the loop from index `i`, from `line`. -/
def lineAfter (c : Config) (line : Byte) : Nat → List Byte → Byte
  | _, [] => line
  | i, _ :: rest => lineAfter c (if startsSegment c i then wrapRow c i else line) (i + 1) rest

theorem wrapRow_lt {c : Config} (hs : supportedRows c) (i : Nat) : wrapRow c i < c.rows := by
  have hpos : 0 < c.rows.toNat := by rcases hs with h | h | h <;> rw [h] <;> decide
  unfold wrapRow
  split
  · exact hpos
  · rename_i h
    have : c.rows.toNat < 256 := c.rows.isLt
    rw [BitVec.lt_def, BitVec.toNat_ofNat, Nat.mod_eq_of_lt (by omega)]
    omega

theorem wrapRow_toNat (c : Config) (i : Nat) :
    (wrapRow c i).toNat = if c.rows.toNat ≤ i / c.cols.toNat then 0 else i / c.cols.toNat := by
  unfold wrapRow
  by_cases h : c.rows.toNat ≤ i / c.cols.toNat
  · simp [h]
  · have : c.rows.toNat < 256 := c.rows.isLt
    simp only [ge_iff_le, h, if_false, BitVec.toNat_ofNat]
    exact Nat.mod_eq_of_lt (by omega)

theorem longMoves_cons (c : Config) (i : Nat) (ch : Byte) (rest : List Byte) :
    longMoves c i (ch :: rest) =
      (if startsSegment c i then [some (wrapRow c i)] else []) ++ none :: longMoves c (i + 1) rest := by
  simp only [longMoves, ← wrapRow_toNat, BitVec.ofNat_toNat, BitVec.setWidth_eq, startsSegment, Bool.and_eq_true,
    decide_eq_true_eq, beq_iff_eq]

theorem attempts_sendPrims (c : Config) (bl : Bool) (v : Byte) (rs : Bool) :
    attempts (progEvents (sendPrims c bl v rs)) = 2 * nibbleWrites c := by
  rw [sendPrims_events, attempts_sendEvents]

/-- One more transfer in front of a list of them. -/
theorem movedLine_cons (c : Config) (line : Byte) (m : Option Byte) (ms : List (Option Byte)) (k : Nat) :
    movedLine c line (m :: ms) k =
      if k < 2 * nibbleWrites c then line else movedLine c (m.getD line) ms (k - 2 * nibbleWrites c) := by
  have hw : 0 < 2 * nibbleWrites c := by unfold nibbleWrites; split <;> decide
  unfold movedLine
  split
  · rename_i h
    rw [Nat.div_eq_of_lt h]
    rfl
  · rename_i h
    rw [Nat.div_eq_sub_div hw (by omega)]
    rfl

/-- The line a failed write leaves is the line before, or the row of one of the moves. -/
theorem movedLine_mem (c : Config) (line : Byte) (ms : List (Option Byte)) (k : Nat) :
    movedLine c line ms k = line ∨ some (movedLine c line ms k) ∈ ms := by
  induction ms generalizing line k with
  | nil => exact .inl (by simp [movedLine])
  | cons m ms ih =>
    rw [movedLine_cons]
    split
    · exact .inl rfl
    · rcases ih (m.getD line) (k - 2 * nibbleWrites c) with h | h
      · cases m with
        | none => exact .inl h
        | some row => exact .inr (by rw [h]; exact List.mem_cons_self ..)
      · exact .inr (List.mem_cons_of_mem _ h)

/-- Every row PRINT_LONG_STR moves to is a row of the display. -/
theorem longMoves_lt {c : Config} (hs : supportedRows c) (i : Nat) (str : List Byte) (row : Byte)
    (h : some row ∈ longMoves c i str) : row < c.rows := by
  induction str generalizing i with
  | nil => cases h
  | cons ch rest ih =>
    rw [longMoves_cons] at h
    rcases List.mem_append.mp h with h | h
    · split at h
      · rw [List.mem_singleton, Option.some.injEq] at h
        exact h ▸ wrapRow_lt hs i
      · cases h
    · rcases List.mem_cons.mp h with h | h
      · cases h
      · exact ih (i + 1) h

/-- The loop of PRINT_LONG_STR: whole, or stopped at a write that leaves the row of the last cursor move made. -/
theorem printLongFrom_runs (i : Nat) (str : List Byte) (s : State) (hs : supportedRows s.cfg) :
    RunsLine (longPrims s.cfg s.bl i str) s (lineAfter s.cfg s.curline i str)
      (movedLine s.cfg s.curline (longMoves s.cfg i str)) (printLongFrom i str s) := by
  induction str generalizing i s with
  | nil => exact (Runs.nil s).toLine.congr fun k => by simp [longMoves, movedLine]
  | cons ch rest ih =>
    rw [longMoves_cons]
    unfold printLongFrom longPrims lineAfter
    by_cases hseg : startsSegment s.cfg i = true
    · simp only [hseg, if_true]
      refine (RunsLine.andThen (setCursor_runs (cursorTarget_zero hs (wrapRow_lt hs i)))
        (f₂ := movedLine s.cfg (wrapRow s.cfg i) (none :: longMoves s.cfg (i + 1) rest)) fun a b c =>
        (RunsLine.andThen (send_runs ch true (withWork (drove (s.setCurline (wrapRow s.cfg i)) _) a b c)).toLine
          (f₂ := movedLine s.cfg (wrapRow s.cfg i) (longMoves s.cfg (i + 1) rest)) fun a' b' c' => ih (i + 1)
            (withWork (drove (withWork (drove (s.setCurline (wrapRow s.cfg i)) _) a b c) _) a' b' c') hs).congr
          fun k => ?_).congr fun k => ?_
      · rw [movedLine_cons, attempts_sendPrims]
        rfl
      · rw [List.singleton_append, movedLine_cons s.cfg s.curline, attempts_sendPrims]
        rfl
    · simp only [hseg, Bool.false_eq_true, if_false, List.nil_append]
      have : ∀ f : State → Run, Run.andThen (.ok s) f = f s := fun f => rfl
      rw [this]
      refine (RunsLine.andThen (send_runs ch true s).toLine
        (f₂ := movedLine s.cfg s.curline (longMoves s.cfg (i + 1) rest)) fun a' b' c' =>
        ih (i + 1) (withWork (drove (s.setCurline s.curline) _) a' b' c') hs).congr fun k => ?_
      rw [movedLine_cons, attempts_sendPrims]
      rfl

/-- PRINT_LONG_STR on a supported geometry: the first cursor move, then the loop (R284). -/
theorem printLongStr_runs (str : List Byte) (s : State) (hs : supportedRows s.cfg) :
    RunsLine (sendPrims s.cfg s.bl 0x80#8 false ++ longPrims s.cfg s.bl 0 str) s (lineAfter s.cfg 0#8 0 str)
      (movedLine s.cfg s.curline (some 0#8 :: longMoves s.cfg 0 str))
      ((setCursor 0#8 0#8 s).andThen (printLongFrom 0 str)) := by
  have hz : 0#8 < s.cfg.rows := by rcases hs with h | h | h <;> rw [h] <;> decide
  refine (RunsLine.andThen (setCursor_runs (cursorTarget_zero hs hz))
    (f₂ := movedLine s.cfg 0#8 (longMoves s.cfg 0 str)) fun a b c =>
    printLongFrom_runs 0 str (withWork (drove (s.setCurline 0#8) _) a b c) hs).congr fun k => ?_
  rw [movedLine_cons, attempts_sendPrims]
  rfl

theorem longPrims_events (c : Config) (bl : Bool) (i : Nat) (str : List Byte) :
    progEvents (longPrims c bl i str) = longEvents c bl i str := by
  induction str generalizing i with
  | nil => rfl
  | cons ch rest ih =>
    simp only [longPrims, longEvents, progEvents_append, ih, sendPrims_events, rowCommand, wrapRow_toNat, startsSegment,
      Bool.and_eq_true, decide_eq_true_eq, beq_iff_eq, List.append_assoc]
    split
    · rw [sendPrims_events]
    · rfl

theorem lineAfter_eq (c : Config) (i : Nat) (str : List Byte) :
    lineAfter c (wrapRow c (i - 1)) i str = wrapRow c (i + str.length - 1) := by
  induction str generalizing i with
  | nil => rfl
  | cons ch rest ih =>
    have hstep : (if startsSegment c i then wrapRow c i else wrapRow c (i - 1)) = wrapRow c i := by
      split
      · rfl
      · rename_i h
        rcases Nat.eq_zero_or_pos i with rfl | hi
        · rfl
        · have hm : i % c.cols.toNat ≠ 0 := by
            intro h0; exact h (by simp [startsSegment, hi, h0])
          have : (i - 1) / c.cols.toNat = i / c.cols.toNat := by
            obtain ⟨j, rfl⟩ : ∃ j, i = j + 1 := ⟨i - 1, by omega⟩
            rw [Nat.add_sub_cancel, Nat.succ_div, if_neg]
            · simp
            · intro hd; exact hm (Nat.mod_eq_zero_of_dvd hd)
          simp [wrapRow, this]
    unfold lineAfter
    rw [hstep]
    have := ih (i + 1)
    rw [Nat.add_sub_cancel] at this
    rw [this, List.length_cons]
    congr 1
    omega

/-! ## The sequencer -/

/-- The bus program of a sequencer state (R201). -/
def seqPrims (c : Config) (bl : Bool) : Seq → List Prim
  | .powerUp => []
  | .assertLines => assertPrims c bl
  | .waitPwrA => [.waitMs c.tPwrAMs]
  | .waitPwrB => [.waitMs c.tPwrBMs]
  | .nib3a => nibblePrims c bl 0x30#8 false
  | .wait3a => [.waitUs c.tInit3Us]
  | .nib3b => nibblePrims c bl 0x30#8 false
  | .wait3b => [.waitUs c.tInit3Us]
  | .nib3c => nibblePrims c bl 0x30#8 false
  | .wait3c => [.waitUs c.tInit3Us]
  | .nib2 => nibblePrims c bl 0x20#8 false
  | .functionSet => sendPrims c bl (functionSetCommand c) false
  | .displayControl => sendPrims c bl 0x0C#8 false
  | .clear => sendPrims c bl 0x01#8 false
  | .clearWait => [.waitMs c.tClearMs]
  | .entryMode => sendPrims c bl 0x06#8 false
  | .returnHome => sendPrims c bl 0x02#8 false
  | .homeWait => [.waitMs c.tHomeMs]
  | .ready => []
  | .failed => []

/-- The register a sequencer state writes before its bus writes (R207, R209). -/
def seqBefore (q : Seq) (s : State) : State :=
  match q with
  | .displayControl => s.setDctl 0b100#3
  | .entryMode => s.setEmode 0b10#2
  | _ => s

/-- The registers once a sequencer state has gone through (R207 to R209). -/
def seqAfter (q : Seq) (s : State) : State :=
  match q with
  | .displayControl => s.setDctl 0b100#3
  | .clearWait => s.setCurline 0#8
  | .entryMode => s.setEmode 0b10#2
  | _ => s

/-- What one sequencer state comes to. -/
theorem initAction_cases (q : Seq) (s : State) :
    ∃ xv xrs nib,
      (AllOk (attempts (progEvents (seqPrims s.cfg s.bl q))) s ∧
        initAction q s = .ok (withWork (drove (seqAfter q s) (progEvents (seqPrims s.cfg s.bl q))) xv xrs nib)) ∨
      (∃ k, k < attempts (progEvents (seqPrims s.cfg s.bl q)) ∧ FailsAfter k s ∧
        initAction q s =
          .raise (withWork (drove (seqBefore q s) (cutAt k (progEvents (seqPrims s.cfg s.bl q)))) xv xrs nib)
            .busWriteFailure) := by
  cases q with
  | powerUp => exact Runs.nil s
  | assertLines => exact drive_runs _ s
  | waitPwrA => exact waitMs_runs _ s
  | waitPwrB => exact waitMs_runs _ s
  | nib3a => exact nibbleTx_runs _ _ s
  | wait3a => exact waitUs_runs _ s
  | nib3b => exact nibbleTx_runs _ _ s
  | wait3b => exact waitUs_runs _ s
  | nib3c => exact nibbleTx_runs _ _ s
  | wait3c => exact waitUs_runs _ s
  | nib2 => exact nibbleTx_runs _ _ s
  | functionSet => exact send_runs _ _ s
  | displayControl => exact send_runs 0x0C#8 false (s.setDctl 0b100#3)
  | clear => exact send_runs _ _ s
  | clearWait => exact ⟨s.xv, s.xrs, s.nib, .inl ⟨fun j h => absurd h (by simp [seqPrims, progEvents, primEvent, attempts]), rfl⟩⟩
  | entryMode => exact send_runs 0x06#8 false (s.setEmode 0b10#2)
  | returnHome => exact send_runs 0x02#8 false s
  | homeWait => exact waitMs_runs _ s
  | ready => exact Runs.nil s
  | failed => exact Runs.nil s

/-- The bus program of a list of sequencer states. -/
def seqsPrims (c : Config) (bl : Bool) (qs : List Seq) : List Prim := qs.flatMap (seqPrims c bl)

theorem assertPrims_events (c : Config) (bl : Bool) : progEvents (assertPrims c bl) = assertEvents c bl := by
  cases h : c.variant <;> cases bl <;>
    simp [progEvents, assertPrims, assertEvents, h, primEvent, memWrite, lineWrite, byteEvent, lineEvent,
      backlightByte, flagBit]

theorem functionSetCommand_eq (c : Config) : functionSetCommand c = if 1 < c.rows.toNat then 0x28#8 else 0x20#8 := by
  unfold functionSetCommand
  by_cases h : 1 < c.rows.toNat
  · have hb : 1#8 < c.rows := h
    simp [h, hb, flagBit]
  · have hb : ¬ 1#8 < c.rows := h
    simp [h, hb, flagBit]

/-- The bus program of INIT against the event list of R213. -/
theorem initOrder_events (c : Config) (bl : Bool) : progEvents (seqsPrims c bl initOrder) = initEvents c bl := by
  simp only [seqsPrims, initOrder, List.flatMap_cons, List.flatMap_nil, seqPrims, progEvents_append,
    nibblePrims_events, sendPrims_events, assertPrims_events, functionSetCommand_eq, initEvents, initHead, initMiddle,
    initTail]
  simp [progEvents, primEvent]

theorem attempts_initEvents (c : Config) (bl : Bool) : attempts (initEvents c bl) = initWrites c := by
  have ha : attempts (assertEvents c bl) = assertWrites c := by
    cases h : c.variant <;> simp [assertEvents, assertWrites, h, attempts, byteEvent, lineEvent]
  simp only [initEvents, initHead, initMiddle, initTail, attempts_append, attempts_nibbleEvents, attempts_sendEvents,
    ha, initWrites, initMiddleWrites, initHeadWrites]
  simp only [attempts]
  omega

/-- The registers once a list of sequencer states has gone through. -/
def seqsAfter : List Seq → State → State
  | [], s => s
  | q :: qs, s => seqsAfter qs (seqAfter q s)

/-- The registers when the `k`-th bus write of a list of sequencer states fails. -/
def seqsAt : List Seq → Nat → State → State
  | [], _, s => s
  | q :: qs, k, s =>
    if k < attempts (progEvents (seqPrims s.cfg s.bl q)) then seqBefore q s
    else seqsAt qs (k - attempts (progEvents (seqPrims s.cfg s.bl q))) (seqAfter q s)

theorem seqAfter_cfg (q : Seq) (s : State) : (seqAfter q s).cfg = s.cfg := by cases q <;> rfl
theorem seqAfter_bl (q : Seq) (s : State) : (seqAfter q s).bl = s.bl := by cases q <;> rfl

/-- The sequencer's registers do not depend on the events, on the working registers or on `SEQ`. -/
theorem seqsAfter_drove (qs : List Seq) (s : State) (p : Seq) (es : List Event) (a : Byte) (b : Bool) (c : Byte) :
    seqsAfter qs (withWork (drove (s.setSeq p) es) a b c) = withWork (drove ((seqsAfter qs s).setSeq p) es) a b c := by
  induction qs generalizing s with
  | nil => rfl
  | cons q qs ih =>
    have : seqAfter q (withWork (drove (s.setSeq p) es) a b c) =
        withWork (drove ((seqAfter q s).setSeq p) es) a b c := by cases q <;> rfl
    simp only [seqsAfter, this, ih]

theorem seqsAt_drove (qs : List Seq) (k : Nat) (s : State) (p : Seq) (es : List Event) (a : Byte) (b : Bool) (c : Byte) :
    seqsAt qs k (withWork (drove (s.setSeq p) es) a b c) = withWork (drove ((seqsAt qs k s).setSeq p) es) a b c := by
  induction qs generalizing s k with
  | nil => rfl
  | cons q qs ih =>
    have h1 : seqAfter q (withWork (drove (s.setSeq p) es) a b c) =
        withWork (drove ((seqAfter q s).setSeq p) es) a b c := by cases q <;> rfl
    have h2 : seqBefore q (withWork (drove (s.setSeq p) es) a b c) =
        withWork (drove ((seqBefore q s).setSeq p) es) a b c := by cases q <;> rfl
    have hc : (withWork (drove (s.setSeq p) es) a b c).cfg = s.cfg := rfl
    have hb : (withWork (drove (s.setSeq p) es) a b c).bl = s.bl := rfl
    simp only [seqsAt, h1, h2, ih, hc, hb]
    split <;> rfl

/-- Running a list of sequencer states: READY with every write answered `Ok`, or FAILED at the first that is not
(R211, R212). -/
theorem runSequencer_cases (qs : List Seq) (s : State) :
    ∃ xv xrs nib,
      (AllOk (attempts (progEvents (seqsPrims s.cfg s.bl qs))) s ∧
        runSequencer qs s =
          .ok (withWork (drove ((seqsAfter qs s).setSeq .ready) (progEvents (seqsPrims s.cfg s.bl qs))) xv xrs nib)) ∨
      (∃ k, k < attempts (progEvents (seqsPrims s.cfg s.bl qs)) ∧ FailsAfter k s ∧
        runSequencer qs s =
          .raise (withWork (drove ((seqsAt qs k s).setSeq .failed)
            (cutAt k (progEvents (seqsPrims s.cfg s.bl qs)))) xv xrs nib) .initializationFailed) := by
  induction qs generalizing s with
  | nil =>
    refine ⟨s.xv, s.xrs, s.nib, .inl ⟨fun j h => absurd h (by simp [seqsPrims, progEvents, attempts]), ?_⟩⟩
    show Run.ok _ = Run.ok _
    rw [show progEvents (seqsPrims s.cfg s.bl []) = [] from rfl, drove_nil]
    rfl
  | cons q qs ih =>
    have happ : progEvents (seqsPrims s.cfg s.bl (q :: qs)) =
        progEvents (seqPrims s.cfg s.bl q) ++ progEvents (seqsPrims s.cfg s.bl qs) := by
      simp [seqsPrims]
    rw [happ]
    obtain ⟨a, b, c, ⟨hok, he⟩ | ⟨k, hk, hf, he⟩⟩ := initAction_cases q (s.setSeq q)
    · have hafter : seqAfter q (s.setSeq q) = (seqAfter q s).setSeq q := by cases q <;> rfl
      rw [hafter] at he
      have hrun : runSequencer (q :: qs) s =
          runSequencer qs (withWork (drove ((seqAfter q s).setSeq q) (progEvents (seqPrims s.cfg s.bl q))) a b c) := by
        simp [runSequencer, he, Run.ok]
      have hsh : ∀ j, oracle (withWork (drove ((seqAfter q s).setSeq q) (progEvents (seqPrims s.cfg s.bl q))) a b c) j =
          oracle s (attempts (progEvents (seqPrims s.cfg s.bl q)) + j) := fun j => by
        cases q <;> exact oracle_drove s _ j
      have hcfg : (withWork (drove ((seqAfter q s).setSeq q) (progEvents (seqPrims s.cfg s.bl q))) a b c).cfg = s.cfg :=
        seqAfter_cfg q s
      have hbl : (withWork (drove ((seqAfter q s).setSeq q) (progEvents (seqPrims s.cfg s.bl q))) a b c).bl = s.bl :=
        seqAfter_bl q s
      have hih := ih (withWork (drove ((seqAfter q s).setSeq q) (progEvents (seqPrims s.cfg s.bl q))) a b c)
      rw [hcfg, hbl] at hih
      obtain ⟨a', b', c', ⟨hok', he'⟩ | ⟨k, hk, ⟨ha, hfk⟩, he'⟩⟩ := hih
      · refine ⟨a', b', c', .inl ⟨fun j hj => ?_, ?_⟩⟩
        · by_cases h : j < attempts (progEvents (seqPrims s.cfg s.bl q))
          · exact hok j h
          · have := hok' (j - attempts (progEvents (seqPrims s.cfg s.bl q))) (by simp at hj; omega)
            rwa [hsh, Nat.add_sub_cancel' (by omega)] at this
        · rw [hrun, he', seqsAfter_drove, ← drove_append]
          rfl
      · refine ⟨a', b', c', .inr ⟨attempts (progEvents (seqPrims s.cfg s.bl q)) + k, by simp; omega,
          ⟨fun j hj => ?_, ?_⟩, ?_⟩⟩
        · by_cases h : j < attempts (progEvents (seqPrims s.cfg s.bl q))
          · exact hok j h
          · have := ha (j - attempts (progEvents (seqPrims s.cfg s.bl q))) (by omega)
            rwa [hsh, Nat.add_sub_cancel' (by omega)] at this
        · rwa [hsh] at hfk
        · rw [hrun, he', seqsAt_drove, cutAt_append_right, ← drove_append]
          simp only [seqsAt, Nat.not_lt.mpr (Nat.le_add_right _ k), if_false, Nat.add_sub_cancel_left]
          rfl
    · refine ⟨a, b, c, .inr ⟨k, by simp; exact Nat.lt_add_right _ hk, hf, ?_⟩⟩
      have hb : seqBefore q (s.setSeq q) = (seqBefore q s).setSeq q := by cases q <;> rfl
      have hk' : k < attempts (progEvents (seqPrims s.cfg s.bl q)) := hk
      rw [cutAt_append_left _ _ _ hk']
      simp only [runSequencer, he, Run.raise, seqsAt, hk', if_true, hb]
      rfl

end Sys2Proof.Laws
end

