-- ==== Sys2Proof/Laws/Exec.lean ====
section
/-! SUPPORT. What an instruction can do when it ends, said once for all of them (`exec_ends`): which registers it may
have written, that its bus program fits the variant, and whether it ran whole or stopped at its first failed write. -/

namespace Sys2Proof.Laws

open Sys2Proof.Machine Sys2Proof.Safety

/-- A primitive of a bus program fits the configuration and carries the backlight value `bl` (R106, R108, R164). -/
def primFits (c : Config) (bl : Bool) (p : Prim) : Prop :=
  eventFits c (primEvent p) = true ∧ carriesBacklight bl (primEvent p) = true

/-- Every primitive fits. -/
def progFits (c : Config) (bl : Bool) (ps : List Prim) : Prop := ∀ p ∈ ps, primFits c bl p

theorem progFits_append {c : Config} {bl : Bool} {ps qs : List Prim} (hp : progFits c bl ps) (hq : progFits c bl qs) :
    progFits c bl (ps ++ qs) := fun p h => (List.mem_append.mp h).elim (hp p) (hq p)

theorem progFits_nil (c : Config) (bl : Bool) : progFits c bl [] := fun _ h => absurd h List.not_mem_nil

theorem progFits_waitMs (c : Config) (bl : Bool) (n : Half) : progFits c bl [.waitMs n] := fun p h => by
  rw [List.mem_singleton.mp h]; exact ⟨rfl, rfl⟩

theorem progFits_waitUs (c : Config) (bl : Bool) (n : Half) : progFits c bl [.waitUs n] := fun p h => by
  rw [List.mem_singleton.mp h]; exact ⟨rfl, rfl⟩

/-- Every expander byte has RW = 0 (R106). -/
theorem exb_rw (bl : Bool) (nib : Byte) (rs e : Bool) : (exb bl nib rs e)[1] = false := by
  cases bl <;> cases rs <;> cases e <;> simp [exb, flagBit]

/-- Every expander byte carries the backlight latch in bit 3 (R164). -/
theorem exb_bl (bl : Bool) (nib : Byte) (rs e : Bool) : (exb bl nib rs e)[3] = bl := by
  cases bl <;> cases rs <;> cases e <;> simp [exb, flagBit]

theorem progFits_nibble (c : Config) (bl : Bool) (nib : Byte) (rs : Bool) : progFits c bl (nibblePrims c bl nib rs) := by
  intro p hp
  cases hv : c.variant <;>
    simp only [nibblePrims, hv, pulseExpander, pulseDiscrete, memWrite, lineWrite, List.mem_cons, List.mem_append,
      List.not_mem_nil, or_false, or_assoc] at hp <;>
    rcases hp with rfl | rfl | rfl | rfl | rfl | rfl | rfl | rfl | rfl <;>
    simp [primFits, primEvent, eventFits, writeFits, carriesBacklight, exb_rw, exb_bl, hv]

theorem progFits_send (c : Config) (bl : Bool) (v : Byte) (rs : Bool) : progFits c bl (sendPrims c bl v rs) :=
  progFits_append (progFits_nibble _ _ _ _) (progFits_nibble _ _ _ _)

theorem progFits_data (c : Config) (bl : Bool) (str : List Byte) : progFits c bl (dataPrims c bl str) := fun p h => by
  obtain ⟨v, -, hv⟩ := List.mem_flatMap.mp h
  exact progFits_send c bl v true p hv

theorem progFits_long (c : Config) (bl : Bool) (i : Nat) (str : List Byte) : progFits c bl (longPrims c bl i str) := by
  induction str generalizing i with
  | nil => exact progFits_nil c bl
  | cons v vs ih =>
    unfold longPrims
    refine progFits_append ?_ (progFits_append (progFits_send _ _ _ _) (ih _))
    split
    · exact progFits_send _ _ _ _
    · exact progFits_nil c bl

theorem progFits_backlight (c : Config) (bl : Bool) : progFits c bl (backlightPrims c bl) := by
  intro p hp
  cases hv : c.variant <;> simp only [backlightPrims, hv, List.mem_singleton, List.not_mem_nil] at hp
  subst hp
  cases bl <;>
    simp [primFits, primEvent, memWrite, eventFits, writeFits, carriesBacklight, backlightByte, flagBit, hv]

theorem progFits_assert (c : Config) (bl : Bool) : progFits c bl (assertPrims c bl) := by
  intro p hp
  cases hv : c.variant <;> simp only [assertPrims, hv, lineWrite, List.mem_cons, List.not_mem_nil, or_false] at hp
  · subst hp
    cases bl <;>
      simp [primFits, primEvent, memWrite, eventFits, writeFits, carriesBacklight, backlightByte, flagBit, hv]
  · rcases hp with rfl | rfl | rfl | rfl | rfl | rfl <;>
      simp [primFits, primEvent, eventFits, writeFits, carriesBacklight, hv]

theorem progFits_seq (c : Config) (bl : Bool) (q : Seq) : progFits c bl (seqPrims c bl q) := by
  cases q with
  | assertLines => exact progFits_assert c bl
  | nib3a => exact progFits_nibble _ _ _ _
  | nib3b => exact progFits_nibble _ _ _ _
  | nib3c => exact progFits_nibble _ _ _ _
  | nib2 => exact progFits_nibble _ _ _ _
  | functionSet => exact progFits_send _ _ _ _
  | displayControl => exact progFits_send _ _ _ _
  | clear => exact progFits_send _ _ _ _
  | entryMode => exact progFits_send _ _ _ _
  | returnHome => exact progFits_send _ _ _ _
  | waitPwrA => exact progFits_waitMs _ _ _
  | waitPwrB => exact progFits_waitMs _ _ _
  | clearWait => exact progFits_waitMs _ _ _
  | homeWait => exact progFits_waitMs _ _ _
  | wait3a => exact progFits_waitUs _ _ _
  | wait3b => exact progFits_waitUs _ _ _
  | wait3c => exact progFits_waitUs _ _ _
  | powerUp => exact progFits_nil c bl
  | ready => exact progFits_nil c bl
  | failed => exact progFits_nil c bl

theorem progFits_seqs (c : Config) (bl : Bool) (qs : List Seq) : progFits c bl (seqsPrims c bl qs) := fun p h => by
  obtain ⟨q, -, hq⟩ := List.mem_flatMap.mp h
  exact progFits_seq c bl q p hq

/-! ## Registers -/

/-- `r` is `s` but for the registers `i` may write, each with what `i` may write into it (R43, R251 to R256, R287). -/
structure RegsFrom (i : Instr) (s r : State) : Prop where
  same : ∃ bl dctl emode seq curline,
    r = { s with bl := bl, dctl := dctl, emode := emode, seq := seq, curline := curline }
  bl : r.bl = s.bl ∨ ∃ on, i = .backlight on
  dctl : r.dctl = s.dctl ∨ i = .init ∨ ∃ on,
    (i = .display on ∧ r.dctl = dctlWith displayMask on s.dctl) ∨
    (i = .cursor on ∧ r.dctl = dctlWith cursorMask on s.dctl) ∨
    (i = .blink on ∧ r.dctl = dctlWith blinkMask on s.dctl)
  emode : r.emode = s.emode ∨ i = .init ∨
    (∃ on, i = .autoscroll on ∧ r.emode = emodeWith shiftIncrementMask on s.emode) ∨
    ∃ on, (i = .leftToRight ∨ i = .rightToLeft) ∧ r.emode = emodeWith entryLeftMask on s.emode
  curline : r.curline = s.curline ∨
    ((i = .init ∨ i = .clear ∨ i = .nextLine ∨ (∃ col row, i = .setCursor col row) ∨ ∃ str, i = .printLongStr str) ∧
      r.curline ≤ s.cfg.rows)
  seq : r.seq = s.seq ∨ (i = .init ∧ (r.seq = .ready ∨ r.seq = .failed))

theorem RegsFrom.refl (i : Instr) (s : State) : RegsFrom i s s :=
  ⟨⟨_, _, _, _, _, rfl⟩, .inl rfl, .inl rfl, .inl rfl, .inl rfl, .inl rfl⟩

/-! ## How an instruction ends -/

/-- `t` is how `i` ends in `s`: whole, with its whole program's events, or at the first failed write (R9 (a), R152). -/
inductive Ended (i : Instr) (s : State) : State → Prop
  | whole (r : State) (ps : List Prim) (code : Code) (xv : Byte) (xrs : Bool) (nib : Byte) (regs : RegsFrom i s r)
      (fits : progFits s.cfg r.bl ps) (answered : AllOk (attempts (progEvents ps)) s)
      (noBus : code ≠ .busWriteFailure ∧ code ≠ .initializationFailed) (row : mayEnd s.cfg i code = true) :
      Ended i s (finished (withWork r xv xrs nib) (progEvents ps) code)
  | cut (r : State) (ps : List Prim) (k : Nat) (code : Code) (xv : Byte) (xrs : Bool) (nib : Byte)
      (regs : RegsFrom i s r) (fits : progFits s.cfg r.bl ps) (lt : k < attempts (progEvents ps))
      (fails : FailsAfter k s) (bus : code = .busWriteFailure ∨ code = .initializationFailed)
      (row : mayEnd s.cfg i code = true) :
      Ended i s (finished (withWork r xv xrs nib) (cutAt k (progEvents ps)) code)

/-- A request that is one bus program in `r`, where `i` has already written its registers. -/
theorem Ended.of_runs {i : Instr} {s r : State} {ps : List Prim} {run : Run} (h : Runs ps r run)
    (regs : RegsFrom i s r) (fits : progFits s.cfg r.bl ps) (ok : mayEnd s.cfg i .ok = true)
    (bus : attempts (progEvents ps) ≠ 0 → mayEnd s.cfg i .busWriteFailure = true) :
    Ended i s (run.st.respond run.code) := by
  have ho : ∀ j, oracle r j = oracle s j := fun j => by
    obtain ⟨_, _, _, _, _, hr⟩ := regs.same
    rw [hr]; rfl
  obtain ⟨a, b, c, ⟨hok, rfl⟩ | ⟨k, hk, hf, rfl⟩⟩ := h
  · exact .whole r ps .ok a b c regs fits (fun j hj => (ho j).symm.trans (hok j hj)) ⟨by decide, by decide⟩ ok
  · exact .cut r ps k .busWriteFailure a b c regs fits hk
      ⟨fun j hj => (ho j).symm.trans (hf.1 j hj), (ho k).symm.trans hf.2⟩ (.inl rfl) (bus (by omega))

/-- The same for a request that goes on to write `CURLINE`. -/
theorem Ended.of_runsLine {i : Instr} {s r : State} {ps : List Prim} {run : Run} {l : Byte}
    {lineAt : Nat → Byte} (h : RunsLine ps r l lineAt run)
    (regs : ∀ cl, (cl = l ∨ ∃ k, lineAt k = cl) → RegsFrom i s (r.setCurline cl))
    (fits : progFits s.cfg r.bl ps) (ok : mayEnd s.cfg i .ok = true) (bus : mayEnd s.cfg i .busWriteFailure = true) :
    Ended i s (run.st.respond run.code) := by
  have ho : ∀ j, oracle r j = oracle s j := fun j => by
    have : oracle r j = oracle (r.setCurline l) j := rfl
    obtain ⟨_, _, _, _, _, hr⟩ := (regs l (.inl rfl)).same
    rw [this, hr]; rfl
  obtain ⟨a, b, c, ⟨hok, rfl⟩ | ⟨k, hk, hf, rfl⟩⟩ := h
  · exact .whole (r.setCurline l) ps .ok a b c (regs l (.inl rfl)) fits (fun j hj => (ho j).symm.trans (hok j hj))
      ⟨by decide, by decide⟩ ok
  · exact .cut (r.setCurline (lineAt k)) ps k .busWriteFailure a b c (regs _ (.inr ⟨k, rfl⟩)) fits hk
      ⟨fun j hj => (ho j).symm.trans (hf.1 j hj), (ho k).symm.trans hf.2⟩ (.inl rfl) bus

/-- A request that ends on a check, before any bus write. -/
theorem Ended.of_check {i : Instr} {s r : State} {code : Code} (regs : RegsFrom i s r)
    (noBus : code ≠ .busWriteFailure ∧ code ≠ .initializationFailed) (row : mayEnd s.cfg i code = true) :
    Ended i s (r.respond code) := by
  have h := Ended.whole (i := i) (s := s) r [] code r.xv r.xrs r.nib regs (progFits_nil _ _)
    (fun j hj => absurd hj (by simp [progEvents, attempts])) noBus row
  simpa [finished_eq_respond, progEvents, withWork_self] using h

/-- `set_cursor` in `r`, as SET_CURSOR, PRINT_LONG_STR and NEXT_LINE use it, where no sum overflows. -/
theorem Ended.of_setCursor {i : Instr} {s r : State} {col row : Byte} (hc : r.cfg = s.cfg)
    (ho : cursorTarget s.cfg col row ≠ .overflow)
    (regs : ∀ cl, cl = r.curline ∨ (cl = row ∧ cl ≤ s.cfg.rows) → RegsFrom i s (r.setCurline cl))
    (hrow : s.cfg.rows ≤ row → mayEnd s.cfg i .rowOutOfBounds = true)
    (hgeo : mayEnd s.cfg i .unsupportedGeometry = true)
    (ok : mayEnd s.cfg i .ok = true) (bus : mayEnd s.cfg i .busWriteFailure = true) :
    Ended i s ((setCursor col row r).st.respond (setCursor col row r).code) := by
  have hself : RegsFrom i s r := regs r.curline (.inl rfl)
  by_cases hr : s.cfg.rows ≤ row
  · have : setCursor col row r = .raise r .rowOutOfBounds := by
      unfold setCursor; rw [hc, cursorTarget_row hr]
    rw [this]
    exact Ended.of_check (code := .rowOutOfBounds) hself ⟨by decide, by decide⟩ (hrow hr)
  · cases ht : cursorTarget s.cfg col row with
    | rowOutOfBounds =>
      unfold cursorTarget at ht
      rw [if_neg hr] at ht
      split at ht
      · cases ht
      · split at ht <;> cases ht
    | unsupportedGeometry =>
      have : setCursor col row r = .raise r .unsupportedGeometry := by unfold setCursor; rw [hc, ht]
      rw [this]
      exact Ended.of_check (code := .unsupportedGeometry) hself ⟨by decide, by decide⟩ hgeo
    | overflow => exact absurd ht ho
    | address addr =>
      have hlt : row < s.cfg.rows := by simpa using hr
      refine Ended.of_runsLine (setCursor_runs (by rw [hc]; exact ht))
        (fun cl hcl => ?_) (by rw [hc]; exact progFits_send _ _ _ _) ok bus
      rcases hcl with rfl | ⟨-, rfl⟩
      · exact regs cl (.inr ⟨rfl, Nat.le_of_lt hlt⟩)
      · exact regs _ (.inl rfl)

/-- CURLINE after a step of NEXT_LINE is at most `CFG.ROWS` (R39, R287). -/
theorem nextRow_le (c : Config) (line : Byte) : nextRow c line ≤ c.rows := by
  unfold nextRow
  split
  · exact Nat.zero_le _
  · rename_i h
    have hlt : line.toNat < c.rows.toNat := by simpa [BitVec.le_def] using h
    have := c.rows.isLt
    show (line + 1#8).toNat ≤ c.rows.toNat
    rw [BitVec.toNat_add]
    show (line.toNat + 1) % 256 ≤ _
    omega

theorem RegsFrom.line {i : Instr} {s : State} (cl : Byte)
    (h : i = .init ∨ i = .clear ∨ i = .nextLine ∨ (∃ col row, i = .setCursor col row) ∨ ∃ str, i = .printLongStr str)
    (hc : cl = s.curline ∨ cl ≤ s.cfg.rows) : RegsFrom i s (s.setCurline cl) :=
  ⟨⟨_, _, _, _, _, rfl⟩, .inl rfl, .inl rfl, .inl rfl, hc.imp id fun hl => ⟨h, hl⟩, .inl rfl⟩

theorem seqBefore_regs (q : Seq) (s r : State) (h : RegsFrom .init s r) : RegsFrom .init s (seqBefore q r) := by
  obtain ⟨⟨_, _, _, _, _, rfl⟩, h2, h3, h4, h5, h6⟩ := h
  cases q with
  | displayControl => exact ⟨⟨_, _, _, _, _, rfl⟩, h2, .inr (.inl rfl), h4, h5, h6⟩
  | entryMode => exact ⟨⟨_, _, _, _, _, rfl⟩, h2, h3, .inr (.inl rfl), h5, h6⟩
  | _ => exact ⟨⟨_, _, _, _, _, rfl⟩, h2, h3, h4, h5, h6⟩

theorem seqAfter_regs (q : Seq) (s r : State) (h : RegsFrom .init s r) : RegsFrom .init s (seqAfter q r) := by
  obtain ⟨⟨_, _, _, _, _, rfl⟩, h2, h3, h4, h5, h6⟩ := h
  cases q with
  | displayControl => exact ⟨⟨_, _, _, _, _, rfl⟩, h2, .inr (.inl rfl), h4, h5, h6⟩
  | clearWait => exact ⟨⟨_, _, _, _, _, rfl⟩, h2, h3, h4, .inr ⟨.inl rfl, Nat.zero_le _⟩, h6⟩
  | entryMode => exact ⟨⟨_, _, _, _, _, rfl⟩, h2, h3, .inr (.inl rfl), h5, h6⟩
  | _ => exact ⟨⟨_, _, _, _, _, rfl⟩, h2, h3, h4, h5, h6⟩

theorem seqsAfter_regs (qs : List Seq) (s r : State) (h : RegsFrom .init s r) : RegsFrom .init s (seqsAfter qs r) := by
  induction qs generalizing r with
  | nil => exact h
  | cons q qs ih => exact ih _ (seqAfter_regs q s r h)

theorem seqsAt_regs (qs : List Seq) (k : Nat) (s r : State) (h : RegsFrom .init s r) :
    RegsFrom .init s (seqsAt qs k r) := by
  induction qs generalizing k r with
  | nil => exact h
  | cons q qs ih =>
    unfold seqsAt
    split
    · exact seqBefore_regs q s r h
    · exact ih _ _ (seqAfter_regs q s r h)

/-- The state of an answered request. -/
theorem reply_next {r : Run} {t : State} (h : reply r = .next t) : r.st.respond r.code = t := by
  injection h

/-- Whatever an instruction does where it answers a next state. -/
theorem exec_ends {i : Instr} {s t : State} (h : exec i s = .next t) : Ended i s t := by
  have hr : RegsFrom i s s := RegsFrom.refl i s
  cases i with
  | init =>
    replace h : (if s.seq = .ready then .refused .initAfterReady else reply (runSequencer initOrder s)) =
      Host.Outcome.next t := h
    split at h
    · cases h
    rw [← reply_next h]
    have hb : (seqsAfter initOrder s).bl = s.bl := rfl
    obtain ⟨a, b, c, ⟨hok, he⟩ | ⟨k, hk, hf, he⟩⟩ := runSequencer_cases initOrder s
    · rw [he]
      obtain ⟨⟨_, _, _, _, _, h1⟩, h2, h3, h4, h5, -⟩ := seqsAfter_regs initOrder s s hr
      exact .whole ((seqsAfter initOrder s).setSeq .ready) _ .ok a b c
        ⟨⟨_, _, _, _, _, by rw [State.setSeq]; conv_lhs => rw [h1]⟩, h2, h3, h4, h5, .inr ⟨rfl, .inl rfl⟩⟩
        (progFits_seqs _ _ _) hok ⟨by decide, by decide⟩ rfl
    · rw [he]
      obtain ⟨⟨_, _, _, _, _, h1⟩, h2, h3, h4, h5, -⟩ := seqsAt_regs initOrder k s s hr
      have hbl : (seqsAt initOrder k s).bl = s.bl := h2.elim id fun ⟨_, h⟩ => by cases h
      refine .cut ((seqsAt initOrder k s).setSeq .failed) _ k .initializationFailed a b c
        ⟨⟨_, _, _, _, _, by rw [State.setSeq]; conv_lhs => rw [h1]⟩, h2, h3, h4, h5, .inr ⟨rfl, .inr rfl⟩⟩ ?_ hk hf (.inr rfl) rfl
      show progFits s.cfg (seqsAt initOrder k s).bl _
      rw [hbl]
      exact progFits_seqs _ _ _
  | sendc v => exact reply_next h ▸ Ended.of_runs (send_runs _ _ s) hr (progFits_send _ _ _ _) rfl fun _ => rfl
  | sendd v => exact reply_next h ▸ Ended.of_runs (send_runs _ _ s) hr (progFits_send _ _ _ _) rfl fun _ => rfl
  | backlight on =>
    refine reply_next h ▸ Ended.of_runs (drive_runs (backlightPrims s.cfg on) (s.setBl on))
      ⟨⟨_, _, _, _, _, rfl⟩, .inr ⟨on, rfl⟩, .inl rfl, .inl rfl, .inl rfl, .inl rfl⟩ (progFits_backlight s.cfg on) rfl fun hn => ?_
    cases hv : s.cfg.variant
    · simp [mayEnd, hv]
    · simp [backlightPrims, hv, progEvents, attempts] at hn
  | delayMs n =>
    exact reply_next h ▸ Ended.of_runs (waitMs_runs n s) hr (progFits_waitMs _ _ _) rfl fun hn => absurd rfl hn
  | delayUs n =>
    exact reply_next h ▸ Ended.of_runs (waitUs_runs n s) hr (progFits_waitUs _ _ _) rfl fun hn => absurd rfl hn
  | display on =>
    exact reply_next h ▸ Ended.of_runs (send_runs _ _ (s.setDctl (dctlWith displayMask on s.dctl)))
      ⟨⟨_, _, _, _, _, rfl⟩, .inl rfl, .inr (.inr ⟨on, .inl ⟨rfl, rfl⟩⟩), .inl rfl, .inl rfl, .inl rfl⟩ (progFits_send _ _ _ _) rfl
      fun _ => rfl
  | cursor on =>
    exact reply_next h ▸ Ended.of_runs (send_runs _ _ (s.setDctl (dctlWith cursorMask on s.dctl)))
      ⟨⟨_, _, _, _, _, rfl⟩, .inl rfl, .inr (.inr ⟨on, .inr (.inl ⟨rfl, rfl⟩)⟩), .inl rfl, .inl rfl, .inl rfl⟩ (progFits_send _ _ _ _) rfl
      fun _ => rfl
  | blink on =>
    exact reply_next h ▸ Ended.of_runs (send_runs _ _ (s.setDctl (dctlWith blinkMask on s.dctl)))
      ⟨⟨_, _, _, _, _, rfl⟩, .inl rfl, .inr (.inr ⟨on, .inr (.inr ⟨rfl, rfl⟩)⟩), .inl rfl, .inl rfl, .inl rfl⟩ (progFits_send _ _ _ _) rfl
      fun _ => rfl
  | autoscroll on =>
    exact reply_next h ▸ Ended.of_runs (send_runs _ _ (s.setEmode (emodeWith shiftIncrementMask on s.emode)))
      ⟨⟨_, _, _, _, _, rfl⟩, .inl rfl, .inl rfl, .inr (.inr (.inl ⟨on, rfl, rfl⟩)), .inl rfl, .inl rfl⟩ (progFits_send _ _ _ _) rfl
      fun _ => rfl
  | leftToRight =>
    exact reply_next h ▸ Ended.of_runs (send_runs _ _ (s.setEmode (emodeWith entryLeftMask true s.emode)))
      ⟨⟨_, _, _, _, _, rfl⟩, .inl rfl, .inl rfl, .inr (.inr (.inr ⟨true, .inl rfl, rfl⟩)), .inl rfl, .inl rfl⟩ (progFits_send _ _ _ _) rfl
      fun _ => rfl
  | rightToLeft =>
    exact reply_next h ▸ Ended.of_runs (send_runs _ _ (s.setEmode (emodeWith entryLeftMask false s.emode)))
      ⟨⟨_, _, _, _, _, rfl⟩, .inl rfl, .inl rfl, .inr (.inr (.inr ⟨false, .inr rfl, rfl⟩)), .inl rfl, .inl rfl⟩ (progFits_send _ _ _ _) rfl
      fun _ => rfl
  | setCursor col row =>
    replace h : (if cursorTarget s.cfg col row = .overflow then .fault .addressOverflow
      else reply (setCursor col row s)) = Host.Outcome.next t := h
    split at h
    · cases h
    rename_i ho
    exact reply_next h ▸ Ended.of_setCursor rfl ho
      (fun cl hc => RegsFrom.line cl (.inr (.inr (.inr (.inl ⟨_, _, rfl⟩)))) (hc.imp id And.right))
      (fun _ => rfl) rfl rfl rfl
  | printChar ch => exact reply_next h ▸ Ended.of_runs (send_runs _ _ s) hr (progFits_send _ _ _ _) rfl fun _ => rfl
  | printStr str => exact reply_next h ▸ Ended.of_runs (sendData_runs str s) hr (progFits_data _ _ _) rfl fun _ => rfl
  | printLongStr str =>
    have hline : ∀ cl, cl = s.curline ∨ cl ≤ s.cfg.rows → RegsFrom (.printLongStr str) s (s.setCurline cl) :=
      fun cl hc => RegsFrom.line cl (.inr (.inr (.inr (.inr ⟨_, rfl⟩)))) hc
    rw [← reply_next h]
    by_cases hs : supportedRows s.cfg
    · refine Ended.of_runsLine (printLongStr_runs str s hs) (fun cl hc => hline cl ?_)
        (progFits_append (progFits_send _ _ _ _) (progFits_long s.cfg s.bl 0 str)) rfl rfl
      rcases hc with rfl | ⟨k, rfl⟩
      · have h0 : wrapRow s.cfg 0 = 0#8 := by simp [wrapRow]
        have hl := lineAfter_eq s.cfg 0 str
        rw [show (0 - 1) = 0 from rfl, h0] at hl
        rw [hl]
        exact .inr (Nat.le_of_lt (wrapRow_lt hs _))
      · refine (movedLine_mem s.cfg s.curline _ k).imp id fun hm => ?_
        rcases List.mem_cons.mp hm with h0 | hm
        · rw [Option.some.inj h0]
          exact Nat.zero_le _
        · exact Nat.le_of_lt (longMoves_lt hs 0 str _ hm)
    · have hcode : (setCursor 0#8 0#8 s).code ≠ .ok := by
        unfold setCursor
        by_cases h0 : s.cfg.rows ≤ 0#8
        · rw [cursorTarget_row h0]; exact fun h => by cases h
        · rw [cursorTarget_geometry (BitVec.not_le.mp h0) hs]; exact fun h => by cases h
      have hand : (setCursor 0#8 0#8 s).andThen (printLongFrom 0 str) = setCursor 0#8 0#8 s := if_neg hcode
      rw [hand]
      refine Ended.of_setCursor rfl (cursorTarget_zero_fits _ _) (fun cl hc => hline cl (hc.imp id And.right))
        (fun h0 => ?_) rfl rfl rfl
      have : s.cfg.rows = 0#8 := BitVec.eq_of_toNat_eq (Nat.le_zero.mp h0)
      simp [mayEnd, this]
  | home =>
    exact reply_next h ▸ Ended.of_runs (homeAndWait_runs _ s) hr
      (progFits_append (progFits_send _ _ _ _) (progFits_waitMs _ _ _)) rfl fun _ => rfl
  | clear =>
    refine reply_next h ▸ Ended.of_runsLine ((clearAndWait_runs s).thenLine 0#8)
      (fun cl hc => RegsFrom.line cl (.inr (.inl rfl)) (hc.symm.imp (fun h => h.choose_spec.symm) fun h0 => ?_))
      (progFits_append (progFits_send _ _ _ _) (progFits_waitMs _ _ _)) rfl rfl
    rw [h0]
    exact Nat.zero_le _
  | nextLine =>
    replace h : (if s.cfg.rows = 1#8 then reply (.raise s .unsupportedOnSingleRow)
      else reply (setCursor 0#8 (nextRow s.cfg s.curline) (s.setCurline (nextRow s.cfg s.curline)))) =
      Host.Outcome.next t := h
    split at h
    · exact reply_next h ▸ Ended.of_check (code := .unsupportedOnSingleRow) hr ⟨by decide, by decide⟩ rfl
    · exact reply_next h ▸ Ended.of_setCursor (r := s.setCurline (nextRow s.cfg s.curline)) rfl
        (cursorTarget_zero_fits _ _)
        (fun cl hc => RegsFrom.line cl (.inr (.inr (.inl rfl)))
          (.inr (hc.elim (fun h => h ▸ nextRow_le _ _) And.right)))
        (fun _ => rfl) rfl rfl rfl
  | createChar slot bitmap =>
    replace h : (if 7#8 < slot then reply (.raise s .slotOutOfBounds)
      else reply ((send (slotCommand slot) rsCommand s).andThen (sendData bitmap))) = Host.Outcome.next t := h
    split at h
    · exact reply_next h ▸ Ended.of_check (code := .slotOutOfBounds) hr ⟨by decide, by decide⟩ rfl
    · exact reply_next h ▸ Ended.of_runs ((send_runs (slotCommand slot) rsCommand s).andThen
        (qs := dataPrims s.cfg s.bl bitmap) (f := sendData bitmap)
        fun a b c => sendData_runs bitmap (withWork (drove s _) a b c)) hr
        (progFits_append (progFits_send _ _ _ _) (progFits_data _ _ _)) rfl fun _ => rfl
  | clearDisplay =>
    exact reply_next h ▸ Ended.of_runs (clearAndWait_runs s) hr
      (progFits_append (progFits_send _ _ _ _) (progFits_waitMs _ _ _)) rfl fun _ => rfl
  | returnHome x =>
    exact reply_next h ▸ Ended.of_runs (homeAndWait_runs x s) hr
      (progFits_append (progFits_send _ _ _ _) (progFits_waitMs _ _ _)) rfl fun _ => rfl
  | entryModeSet e sh => exact reply_next h ▸ Ended.of_runs (send_runs _ _ s) hr (progFits_send _ _ _ _) rfl fun _ => rfl
  | displayControl d c b =>
    exact reply_next h ▸ Ended.of_runs (send_runs _ _ s) hr (progFits_send _ _ _ _) rfl fun _ => rfl
  | cursorShift p r x => exact reply_next h ▸ Ended.of_runs (send_runs _ _ s) hr (progFits_send _ _ _ _) rfl fun _ => rfl
  | functionSet l n f x =>
    exact reply_next h ▸ Ended.of_runs (send_runs _ _ s) hr (progFits_send _ _ _ _) rfl fun _ => rfl
  | setCGRAMAddr a => exact reply_next h ▸ Ended.of_runs (send_runs _ _ s) hr (progFits_send _ _ _ _) rfl fun _ => rfl
  | setDDRAMAddr a => exact reply_next h ▸ Ended.of_runs (send_runs _ _ s) hr (progFits_send _ _ _ _) rfl fun _ => rfl
  | writeData d => exact reply_next h ▸ Ended.of_runs (send_runs _ _ s) hr (progFits_send _ _ _ _) rfl fun _ => rfl
  | reserved00 => exact reply_next h ▸ Ended.of_runs (send_runs _ _ s) hr (progFits_send _ _ _ _) rfl fun _ => rfl
  | handshakeNibble3 =>
    exact reply_next h ▸ Ended.of_runs ((nibbleTx_runs 0x30#8 false s).andThen (qs := [.waitUs s.cfg.tInit3Us])
      (f := fun t => waitUs t.cfg.tInit3Us t) fun a b c => waitUs_runs s.cfg.tInit3Us (withWork (drove s _) a b c)) hr
      (progFits_append (progFits_nibble _ _ _ _) (progFits_waitUs _ _ _)) rfl fun _ => rfl
  | handshakeNibble2 =>
    exact reply_next h ▸ Ended.of_runs (nibbleTx_runs _ _ s) hr (progFits_nibble _ _ _ _) rfl fun _ => rfl

/-! ## The events of a program -/

/-- A program that runs whole has no `Failed` event. -/
theorem failed_not_mem (ps : List Prim) (w : BusWrite) : Event.failed w ∉ progEvents ps := by
  intro h
  obtain ⟨p, -, hp⟩ := List.mem_map.mp h
  cases p <;> cases hp

/-- A program that stops at its write `k`: the events of an initial part of it, then `Failed` of one of its writes
(R152). -/
theorem cutAt_eq (ps : List Prim) (k : Nat) (h : k < attempts (progEvents ps)) :
    ∃ qs w, cutAt k (progEvents ps) = progEvents qs ++ [.failed w] ∧ .write w ∈ ps ∧ ∀ q ∈ qs, q ∈ ps := by
  induction ps generalizing k with
  | nil => simp [progEvents, attempts] at h
  | cons p ps ih =>
    have tail : ∀ {qs : List Prim} {q : Prim}, (∀ x ∈ qs, x ∈ ps) → q ∈ p :: qs → q ∈ p :: ps := fun hq hm =>
      (List.mem_cons.mp hm).elim (fun h => h ▸ List.mem_cons_self ..) fun h => List.mem_cons_of_mem _ (hq _ h)
    cases p with
    | write w =>
      cases k with
      | zero => exact ⟨[], w, rfl, by simp, by simp⟩
      | succ k =>
        obtain ⟨qs, w', he, hm, hq⟩ := ih k (by simpa [progEvents, primEvent, attempts] using h)
        exact ⟨.write w :: qs, w', by simpa [progEvents, primEvent, cutAt] using he, by simp [hm], fun q => tail hq⟩
    | waitUs n =>
      obtain ⟨qs, w', he, hm, hq⟩ := ih k (by simpa [progEvents, primEvent, attempts] using h)
      exact ⟨.waitUs n :: qs, w', by cases k <;> simpa [progEvents, primEvent, cutAt] using he, by simp [hm],
        fun q => tail hq⟩
    | waitMs n =>
      obtain ⟨qs, w', he, hm, hq⟩ := ih k (by simpa [progEvents, primEvent, attempts] using h)
      exact ⟨.waitMs n :: qs, w', by cases k <;> simpa [progEvents, primEvent, cutAt] using he, by simp [hm],
        fun q => tail hq⟩

end Sys2Proof.Laws
end

