-- ==== Sys2Proof/Laws/Latch.lean ====
section
/-! SUPPORT. What the latch observer says of one nibble transaction and of one transfer, with Enable low before it. -/

namespace Sys2Proof.Laws

open Sys2Proof.Machine Sys2Proof.Safety

theorem latches_append (m : BusImage) (es fs : List Event) :
    latches m (es ++ fs) = latches m es ++ latches (es.foldl imageAfter m) fs := by
  induction es generalizing m with
  | nil => rfl
  | cons e es ih => simp [latches, ih]

/-- Enable's level on EXPANDER is bit 2 of a known `OUTB`. -/
theorem enableLevel_known {m : BusImage} {v : Bool} (h : enableLevel .expander m = .known v) :
    ∃ b : Byte, m.outb = .known b ∧ b[2] = v := by
  unfold enableLevel at h
  cases ho : m.outb with
  | known b =>
    rw [ho] at h
    simp only [Drive.known.injEq] at h
    exact ⟨b, rfl, h⟩
  | unknown => rw [ho] at h; cases h

theorem enableLevel_unknown {m : BusImage} (h : enableLevel .expander m = .unknown) : m.outb = .unknown := by
  unfold enableLevel at h
  cases ho : m.outb with
  | known b => rw [ho] at h; cases h
  | unknown => rfl

/-- The presenting byte of an EXPANDER nibble has E = 0 and carries RS and D7..D4 (R106). -/
theorem presentByte_fields (nib : Byte) (bl rs : Bool) :
    let h0 := (nib &&& 0xF0#8) ||| (if bl then 0x08#8 else 0#8) ||| (if rs then 0x01#8 else 0#8)
    h0[2] = false ∧ h0[0] = rs ∧ h0.extractLsb' 4 4 = nib.extractLsb' 4 4 := by
  refine ⟨?_, ?_, ?_⟩
  · cases bl <;> cases rs <;> simp
  · cases bl <;> cases rs <;> simp
  · ext i hi
    interval_cases i <;> cases bl <;> cases rs <;> simp

/-- The four data lines of a nibble in bits 7:4. -/
theorem nibble_lines (nib : Byte) :
    BitVec.ofBool nib[7] ++ BitVec.ofBool nib[6] ++ BitVec.ofBool nib[5] ++ BitVec.ofBool nib[4] =
      nib.extractLsb' 4 4 := by
  revert nib
  decide +kernel

/-- With Enable low before it, a nibble transaction latches its nibble once and leaves Enable low (R157). -/
theorem nibble_latches (c : Config) (bl : Bool) (nib : Byte) (rs : Bool) (m : BusImage)
    (h : enableLevel c.variant m = .known false) :
    latches m (nibbleEvents c bl nib rs) = [.nibble rs (nib.extractLsb' 4 4)] ∧
      enableLevel c.variant ((nibbleEvents c bl nib rs).foldl imageAfter m) = .known false := by
  obtain ⟨e1, e2, e3⟩ := presentByte_fields nib bl rs
  cases hv : c.variant
  · rw [hv] at h
    obtain ⟨b0, ho, hb0⟩ := enableLevel_known h
    simp only [nibbleEvents, hv, byteEvent, w1, w50]
    generalize ((nib &&& 0xF0#8) ||| (if bl then 0x08#8 else 0#8) ||| (if rs then 0x01#8 else 0#8)) = h0 at *
    constructor
    · simp [latches, latchOf, writeLatch, e1, ho, hb0, edgeLatch, imageAfter, BusImage.put, enableLevel, byteLatch,
        e2, e3]
    · simp [imageAfter, BusImage.put, enableLevel, e1]
  · simp only [nibbleEvents, hv, lineEvent, w1, w50]
    constructor
    · simp [latches, latchOf, writeLatch, edgeLatch, imageAfter, BusImage.put, enableLevel, lineLatch, ← nibble_lines]
    · simp [imageAfter, BusImage.put, enableLevel]

/-- The two nibbles of a transferred byte (R75). -/
theorem highNibble_field (v : Byte) : (v &&& 0xF0#8).extractLsb' 4 4 = v.extractLsb' 4 4 := by
  ext i hi
  interval_cases i <;> simp

theorem lowNibble_field (v : Byte) : (v <<< 4).extractLsb' 4 4 = v.extractLsb' 0 4 := by
  ext i hi
  interval_cases i <;> simp

end Sys2Proof.Laws
end

