-- ==== Sys2Proof/Laws/PerInstr.lean ====
section
/-! SUPPORT. One lemma per constructor of `Instr`: the word the encoder gives is one that its row of opcode_table.json
admits, with the row's own numbers. -/

namespace Sys2Proof.Laws

/-- A REQ32 word that a row with this `match` and `mask` admits. -/
def TableRow.request (matched mask : Word) : PortWord → Prop
  | .request w _ => w &&& mask = matched
  | .transfer _ => False
  | .nibble _ => False

/-- A CMD9 word whose bits at the fixed places of the row's pattern are the row's. -/
def TableRow.transfer (matched mask : BitVec 9) : PortWord → Prop
  | .request _ _ => False
  | .transfer cmd => cmd &&& mask = matched
  | .nibble _ => False

/-- The NIB5 word of a row. -/
def TableRow.nibble (matched : BitVec 5) : PortWord → Prop
  | .request _ _ => False
  | .transfer _ => False
  | .nibble nib => nib = matched

/-- The encoding of `i` is a word its own row admits. -/
def TableRow.Statement (i : Instr) : Prop :=
  match i with
  | .init => TableRow.request 0x01000000 0xFFFFFFFF (encode i)
  | .sendc _ => TableRow.request 0x02000000 0xFFFFFF00 (encode i)
  | .sendd _ => TableRow.request 0x03000000 0xFFFFFF00 (encode i)
  | .backlight _ => TableRow.request 0x04000000 0xFFFFFFFE (encode i)
  | .delayMs _ => TableRow.request 0x05000000 0xFFFF0000 (encode i)
  | .delayUs _ => TableRow.request 0x06000000 0xFFFF0000 (encode i)
  | .display _ => TableRow.request 0x10000000 0xFFFFFFFE (encode i)
  | .cursor _ => TableRow.request 0x11000000 0xFFFFFFFE (encode i)
  | .blink _ => TableRow.request 0x12000000 0xFFFFFFFE (encode i)
  | .autoscroll _ => TableRow.request 0x13000000 0xFFFFFFFE (encode i)
  | .leftToRight => TableRow.request 0x14000000 0xFFFFFFFF (encode i)
  | .rightToLeft => TableRow.request 0x15000000 0xFFFFFFFF (encode i)
  | .setCursor _ _ => TableRow.request 0x20000000 0xFFFF0000 (encode i)
  | .printChar _ => TableRow.request 0x21000000 0xFFFFFF00 (encode i)
  | .printStr _ => TableRow.request 0x22000000 0xFFFF0000 (encode i)
  | .printLongStr _ => TableRow.request 0x23000000 0xFFFF0000 (encode i)
  | .home => TableRow.request 0x24000000 0xFFFFFFFF (encode i)
  | .clear => TableRow.request 0x25000000 0xFFFFFFFF (encode i)
  | .nextLine => TableRow.request 0x26000000 0xFFFFFFFF (encode i)
  | .createChar _ _ => TableRow.request 0x30000000 0xFFFFFF00 (encode i)
  | .clearDisplay => TableRow.transfer 0b000000001 0b111111111 (encode i)
  | .returnHome _ => TableRow.transfer 0b000000010 0b111111110 (encode i)
  | .entryModeSet _ _ => TableRow.transfer 0b000000100 0b111111100 (encode i)
  | .displayControl _ _ _ => TableRow.transfer 0b000001000 0b111111000 (encode i)
  | .cursorShift _ _ _ => TableRow.transfer 0b000010000 0b111110000 (encode i)
  | .functionSet _ _ _ _ => TableRow.transfer 0b000100000 0b111100000 (encode i)
  | .setCGRAMAddr _ => TableRow.transfer 0b001000000 0b111000000 (encode i)
  | .setDDRAMAddr _ => TableRow.transfer 0b010000000 0b110000000 (encode i)
  | .writeData _ => TableRow.transfer 0b100000000 0b100000000 (encode i)
  | .reserved00 => TableRow.transfer 0b000000000 0b111111111 (encode i)
  | .handshakeNibble3 => TableRow.nibble 0b00011 (encode i)
  | .handshakeNibble2 => TableRow.nibble 0b00010 (encode i)

/-- The fixed bits of a request word: what the mask leaves of `B` and `C` is what the row fixes of them. -/
theorem requestWord_mask (op b c bm cm bv cv : Byte) (hb : b &&& bm = bv) (hc : c &&& cm = cv) :
    requestWord op b c &&& (0xFFFF0000#32 ||| bm.setWidth 32 <<< 8 ||| cm.setWidth 32) =
      requestWord op bv cv := by
  subst hb hc
  unfold requestWord
  ext i hi
  interval_cases i <;> simp

theorem TableRow.init : TableRow.Statement .init :=
  requestWord_mask 0x01#8 _ _ 0xFF#8 0xFF#8 0x00#8 0x00#8 rfl rfl
theorem TableRow.sendc (value : Byte) : TableRow.Statement (.sendc value) :=
  requestWord_mask 0x02#8 _ _ 0xFF#8 0x00#8 0x00#8 0x00#8 rfl (BitVec.and_zero)
theorem TableRow.sendd (value : Byte) : TableRow.Statement (.sendd value) :=
  requestWord_mask 0x03#8 _ _ 0xFF#8 0x00#8 0x00#8 0x00#8 rfl (BitVec.and_zero)
theorem TableRow.backlight (on : Bool) : TableRow.Statement (.backlight on) :=
  requestWord_mask 0x04#8 _ _ 0xFF#8 0xFE#8 0x00#8 0x00#8 rfl (by cases on <;> rfl)
theorem TableRow.delayMs (n : Half) : TableRow.Statement (.delayMs n) :=
  requestWord_mask 0x05#8 _ _ 0x00#8 0x00#8 0x00#8 0x00#8 (BitVec.and_zero) (BitVec.and_zero)
theorem TableRow.delayUs (n : Half) : TableRow.Statement (.delayUs n) :=
  requestWord_mask 0x06#8 _ _ 0x00#8 0x00#8 0x00#8 0x00#8 (BitVec.and_zero) (BitVec.and_zero)
theorem TableRow.display (on : Bool) : TableRow.Statement (.display on) :=
  requestWord_mask 0x10#8 _ _ 0xFF#8 0xFE#8 0x00#8 0x00#8 rfl (by cases on <;> rfl)
theorem TableRow.cursor (on : Bool) : TableRow.Statement (.cursor on) :=
  requestWord_mask 0x11#8 _ _ 0xFF#8 0xFE#8 0x00#8 0x00#8 rfl (by cases on <;> rfl)
theorem TableRow.blink (on : Bool) : TableRow.Statement (.blink on) :=
  requestWord_mask 0x12#8 _ _ 0xFF#8 0xFE#8 0x00#8 0x00#8 rfl (by cases on <;> rfl)
theorem TableRow.autoscroll (on : Bool) : TableRow.Statement (.autoscroll on) :=
  requestWord_mask 0x13#8 _ _ 0xFF#8 0xFE#8 0x00#8 0x00#8 rfl (by cases on <;> rfl)
theorem TableRow.leftToRight : TableRow.Statement .leftToRight :=
  requestWord_mask 0x14#8 _ _ 0xFF#8 0xFF#8 0x00#8 0x00#8 rfl rfl
theorem TableRow.rightToLeft : TableRow.Statement .rightToLeft :=
  requestWord_mask 0x15#8 _ _ 0xFF#8 0xFF#8 0x00#8 0x00#8 rfl rfl
theorem TableRow.setCursor (col row : Byte) : TableRow.Statement (.setCursor col row) :=
  requestWord_mask 0x20#8 _ _ 0x00#8 0x00#8 0x00#8 0x00#8 (BitVec.and_zero) (BitVec.and_zero)
theorem TableRow.printChar (ch : Byte) : TableRow.Statement (.printChar ch) :=
  requestWord_mask 0x21#8 _ _ 0xFF#8 0x00#8 0x00#8 0x00#8 rfl (BitVec.and_zero)
theorem TableRow.printStr (str : List Byte) : TableRow.Statement (.printStr str) :=
  requestWord_mask 0x22#8 _ _ 0x00#8 0x00#8 0x00#8 0x00#8 (BitVec.and_zero) (BitVec.and_zero)
theorem TableRow.printLongStr (str : List Byte) : TableRow.Statement (.printLongStr str) :=
  requestWord_mask 0x23#8 _ _ 0x00#8 0x00#8 0x00#8 0x00#8 (BitVec.and_zero) (BitVec.and_zero)
theorem TableRow.home : TableRow.Statement .home :=
  requestWord_mask 0x24#8 _ _ 0xFF#8 0xFF#8 0x00#8 0x00#8 rfl rfl
theorem TableRow.clear : TableRow.Statement .clear :=
  requestWord_mask 0x25#8 _ _ 0xFF#8 0xFF#8 0x00#8 0x00#8 rfl rfl
theorem TableRow.nextLine : TableRow.Statement .nextLine :=
  requestWord_mask 0x26#8 _ _ 0xFF#8 0xFF#8 0x00#8 0x00#8 rfl rfl
theorem TableRow.createChar (slot : Byte) (bitmap : List Byte) : TableRow.Statement (.createChar slot bitmap) :=
  requestWord_mask 0x30#8 _ _ 0xFF#8 0x00#8 0x00#8 0x00#8 rfl (BitVec.and_zero)
theorem TableRow.clearDisplay : TableRow.Statement .clearDisplay :=
  rfl
theorem TableRow.returnHome (x : BitVec 1) : TableRow.Statement (.returnHome x) := by
  show BitVec.setWidth 9 (returnHomeByte x) &&& 0b111111110 = 0b000000010
  revert x
  decide
theorem TableRow.entryModeSet (e sh : Bool) : TableRow.Statement (.entryModeSet e sh) := by
  show BitVec.setWidth 9 (entryModeSetByte e sh) &&& 0b111111100 = 0b000000100
  revert e sh
  decide
theorem TableRow.displayControl (d c b : Bool) : TableRow.Statement (.displayControl d c b) := by
  show BitVec.setWidth 9 (displayControlByte d c b) &&& 0b111111000 = 0b000001000
  revert d c b
  decide
theorem TableRow.cursorShift (p r : Bool) (x : BitVec 2) : TableRow.Statement (.cursorShift p r x) := by
  show BitVec.setWidth 9 (cursorShiftByte p r x) &&& 0b111110000 = 0b000010000
  revert p r x
  decide +kernel
theorem TableRow.functionSet (l n f : Bool) (x : BitVec 2) : TableRow.Statement (.functionSet l n f x) := by
  show BitVec.setWidth 9 (functionSetByte l n f x) &&& 0b111100000 = 0b000100000
  revert l n f x
  decide +kernel
theorem TableRow.setCGRAMAddr (a : BitVec 6) : TableRow.Statement (.setCGRAMAddr a) := by
  show BitVec.setWidth 9 (setCGRAMAddrByte a) &&& 0b111000000 = 0b001000000
  revert a
  decide +kernel
theorem TableRow.setDDRAMAddr (a : BitVec 7) : TableRow.Statement (.setDDRAMAddr a) := by
  show BitVec.setWidth 9 (setDDRAMAddrByte a) &&& 0b110000000 = 0b010000000
  revert a
  decide +kernel
theorem TableRow.writeData (d : Byte) : TableRow.Statement (.writeData d) := by
  show (0x100#9 ||| d.setWidth 9) &&& 0b100000000 = 0b100000000
  revert d
  decide +kernel
theorem TableRow.reserved00 : TableRow.Statement .reserved00 :=
  rfl
theorem TableRow.handshakeNibble3 : TableRow.Statement .handshakeNibble3 :=
  rfl
theorem TableRow.handshakeNibble2 : TableRow.Statement .handshakeNibble2 :=
  rfl

end Sys2Proof.Laws
end

