-- ==== Sys2Proof/Tests/Slice0.lean ====
section
/-! SUPPORT. Small named tests. Expected results are those of spec/95_test_vectors.md (the vector is named at each) or
are worked out by hand from the rule named. The last part gives, for each statement with hypotheses, a concrete state
and operands that meet them. -/

namespace Sys2Proof.Tests

open Sys2Proof Sys2Proof.Machine Sys2Proof.Safety

/-! ## Helpers -/

/-- The reset state S0 of a configuration, with `n` bus writes to be answered `Ok` and then `rest`. -/
def start (v : Variant) (cols rows : Byte) (bl : Bool) (n : Nat) (rest : List Answer := []) : State :=
  { State.resetOf { Config.standard with variant := v, cols := cols, rows := rows, blInit := bl } with
    answers := List.replicate n .ok ++ rest }

/-- The registers after a successful INIT, SR of 95_test_vectors.md. -/
def initialized (s : State) : State := { s with seq := .ready, dctl := 0b100#3, emode := 0b10#2 }

/-- On EXPANDER, 16 columns by 2 rows, backlight off, initialized. -/
def exp2 (n : Nat) (rest : List Answer := []) : State := initialized (start .expander 16 2 false n rest)

/-- On DISCRETE, 16 columns by 2 rows, initialized. -/
def disc2 (n : Nat) (rest : List Answer := []) : State := initialized (start .discrete 16 2 false n rest)

/-- On EXPANDER, 20 columns by 4 rows, initialized. -/
def exp4 (n : Nat) : State := initialized (start .expander 20 4 false n)

/-- Look at a next state; nothing where the step stopped. -/
def after {α : Type} (o : Host.Outcome State Fault Refusal) (f : State → α) : Option α :=
  match o with
  | .next t => some (f t)
  | .fault _ => none
  | .refused _ => none

/-- What the observation of one request is: its events and its response. -/
def seen (t : State) : List Event × List Code := (t.trace, t.responses)

/-- `Bxx` of 95_test_vectors.md. -/
def byteEv (b : Byte) : Event := .write (.byte 0x27#7 b)
/-- `W1`. -/
def waitHigh : Event := .waitUs 1#16
/-- `W50`. -/
def waitLow : Event := .waitUs 50#16
/-- `l=v`. -/
def lineEv (l : Line) (v : Bool) : Event := .write (.line l v)

/-- The five events of a nibble on EXPANDER, from the two bytes the vectors give. -/
def five (h0 h1 : Byte) : List Event := [byteEv h0, byteEv h1, waitHigh, byteEv h0, waitLow]

/-- The nine events of a nibble on DISCRETE. -/
def nine (rs d4 d5 d6 d7 : Bool) : List Event :=
  [lineEv .rs rs, lineEv .d4 d4, lineEv .d5 d5, lineEv .d6 d6, lineEv .d7 d7, lineEv .e true, waitHigh,
    lineEv .e false, waitLow]

/-! ## WellFormed smoke: an ill-formed term for each check -/

theorem test_wf_bitmap_seven : (Instr.createChar 7 (List.replicate 7 0)).wf = false := by decide
theorem test_wf_bitmap_nine : (Instr.createChar 7 (List.replicate 9 0)).wf = false := by decide
theorem test_wf_bitmap_eight : (Instr.createChar 7 (List.replicate 8 0)).wf = true := by decide
/-- One byte more than the 16-bit count can say, for both string requests. -/
theorem test_wf_string_too_long :
    (Instr.printStr (List.replicate 65536 0)).wf = false ∧ (Instr.printLongStr (List.replicate 65536 0)).wf = false := by
  have h : decide ((List.replicate 65536 (0 : Byte)).length < 65536) = false := by rw [List.length_replicate]; rfl
  exact ⟨h, h⟩
/-- The longest strings. -/
theorem test_wf_string_longest :
    (Instr.printStr (List.replicate 65535 0)).wf = true ∧ (Instr.printLongStr (List.replicate 65535 0)).wf = true := by
  have h : decide ((List.replicate 65535 (0 : Byte)).length < 65536) = true := by rw [List.length_replicate]; rfl
  exact ⟨h, h⟩

/-! ## Decoding: a word written out from the encoding tables for every constructor

REQ32 words are OP, A, B, C from left to right (R101, R102); CMD9 words RS and the byte (R109); NIB5 words RS and N
(R112). -/

theorem test_decode_init : decode (.request 0b00000001000000000000000000000000#32 []) = .ok .init := by decide
theorem test_decode_sendc : decode (.request 0b00000010000000000000000000101000#32 []) = .ok (.sendc 0x28) := by decide
theorem test_decode_sendd : decode (.request 0b00000011000000000000000001000001#32 []) = .ok (.sendd 0x41) := by decide
theorem test_decode_backlight :
    decode (.request 0b00000100000000000000000000000001#32 []) = .ok (.backlight true) := by decide
theorem test_decode_delayMs :
    decode (.request 0b00000101000000000000001111101000#32 []) = .ok (.delayMs 1000) := by decide
theorem test_decode_delayUs :
    decode (.request 0b00000110000000000001000110010100#32 []) = .ok (.delayUs 4500) := by decide
theorem test_decode_display :
    decode (.request 0b00010000000000000000000000000001#32 []) = .ok (.display true) := by decide
theorem test_decode_cursor :
    decode (.request 0b00010001000000000000000000000000#32 []) = .ok (.cursor false) := by decide
theorem test_decode_blink :
    decode (.request 0b00010010000000000000000000000001#32 []) = .ok (.blink true) := by decide
theorem test_decode_autoscroll :
    decode (.request 0b00010011000000000000000000000000#32 []) = .ok (.autoscroll false) := by decide
theorem test_decode_leftToRight :
    decode (.request 0b00010100000000000000000000000000#32 []) = .ok .leftToRight := by decide
theorem test_decode_rightToLeft :
    decode (.request 0b00010101000000000000000000000000#32 []) = .ok .rightToLeft := by decide
theorem test_decode_setCursor :
    decode (.request 0b00100000000000000000010100000001#32 []) = .ok (.setCursor 5 1) := by decide
theorem test_decode_printChar :
    decode (.request 0b00100001000000000000000001001000#32 []) = .ok (.printChar 0x48) := by decide
theorem test_decode_printStr :
    decode (.request 0b00100010000000000000000000000010#32 [0x48, 0x69]) = .ok (.printStr [0x48, 0x69]) := by decide
/-- V-ENC-1: n = 300 = 0x012C, `B` the high byte. -/
theorem test_decode_printLongStr :
    decode (.request 0b00100011000000000000000100101100#32 (List.replicate 300 0x2E)) =
      .ok (.printLongStr (List.replicate 300 0x2E)) := by decide +kernel
theorem test_decode_home : decode (.request 0b00100100000000000000000000000000#32 []) = .ok .home := by decide
theorem test_decode_clear : decode (.request 0b00100101000000000000000000000000#32 []) = .ok .clear := by decide
theorem test_decode_nextLine : decode (.request 0b00100110000000000000000000000000#32 []) = .ok .nextLine := by decide
theorem test_decode_createChar :
    decode (.request 0b00110000000000000000000000001000#32 [0, 10, 31, 31, 14, 4, 0, 0]) =
      .ok (.createChar 8 [0, 10, 31, 31, 14, 4, 0, 0]) := by decide
theorem test_decode_clearDisplay : decode (.transfer 0b000000001#9) = .ok .clearDisplay := by decide
theorem test_decode_returnHome : decode (.transfer 0b000000010#9) = .ok (.returnHome 0) := by decide
theorem test_decode_returnHome_ignored : decode (.transfer 0b000000011#9) = .ok (.returnHome 1) := by decide
theorem test_decode_entryModeSet : decode (.transfer 0b000000110#9) = .ok (.entryModeSet true false) := by decide
theorem test_decode_displayControl :
    decode (.transfer 0b000001110#9) = .ok (.displayControl true true false) := by decide
theorem test_decode_cursorShift : decode (.transfer 0b000011001#9) = .ok (.cursorShift true false 0b01) := by decide
theorem test_decode_functionSet :
    decode (.transfer 0b000101010#9) = .ok (.functionSet false true false 0b10) := by decide
theorem test_decode_setCGRAMAddr : decode (.transfer 0b001111000#9) = .ok (.setCGRAMAddr 0x38) := by decide
theorem test_decode_setDDRAMAddr : decode (.transfer 0b011010100#9) = .ok (.setDDRAMAddr 0x54) := by decide
theorem test_decode_writeData : decode (.transfer 0b101000001#9) = .ok (.writeData 0x41) := by decide
theorem test_decode_reserved00 : decode (.transfer 0b000000000#9) = .ok .reserved00 := by decide
theorem test_decode_handshakeNibble3 : decode (.nibble 0b00011#5) = .ok .handshakeNibble3 := by decide
theorem test_decode_handshakeNibble2 : decode (.nibble 0b00010#5) = .ok .handshakeNibble2 := by decide

/-! ### Refused words (V-ENC-2, R112) -/

theorem test_refuse_opcode :
    [0x00000000#32, 0x07000000#32, 0x31000000#32, 0xFF000000#32].map (fun w => decode (.request w [])) =
      List.replicate 4 (.error .opcode) := by decide
theorem test_refuse_fieldA : decode (.request 0x02010041#32 []) = .error .fieldA := by decide
theorem test_refuse_zeroField :
    [0x02000141#32, 0x01000001#32, 0x14000001#32].map (fun w => decode (.request w [])) =
      List.replicate 3 (.error .zeroField) := by decide
theorem test_refuse_flag :
    [0x04000002#32, 0x10000002#32].map (fun w => decode (.request w [])) = List.replicate 2 (.error .flag) := by decide
theorem test_refuse_payload :
    decode (.request 0x30000007#32 (List.replicate 7 0)) = .error .payloadLength ∧
    decode (.request 0x22000002#32 [0x48, 0x69, 0x21]) = .error .payloadLength ∧
    decode (.request 0x21000041#32 [0x41]) = .error .payloadLength := by decide
theorem test_refuse_nibble :
    decode (.nibble 0b00001#5) = .error .notHandshake ∧ decode (.nibble 0b10011#5) = .error .notHandshake := by decide

/-! ### The host's numbering -/

theorem test_table_words :
    decodeTableWord 32 0x20000501 = some (.setCursor 5 1) ∧ decodeTableWord 32 0x30000000 =
      some (.createChar 0 (List.replicate 8 0)) ∧ decodeTableWord 16 0x1FF = some (.writeData 0xFF) ∧
    decodeTableWord 8 0x3 = some .handshakeNibble3 ∧ decodeTableWord 8 0x1 = none := by decide

/-- The very next step runs the word: CURSOR 1 from reset, whatever the answers, writes `DCTL` (R252). -/
theorem test_withFetchWord_first :
    after (step ((start .expander 16 2 false 6).withFetchWord 32 0x11000001)) (fun t => (t.dctl, t.responses)) =
      some (0b010, [.ok]) := by decide +kernel

/-! ## One step each -/

/-- V-PE-1, SENDC 0x28 with BL = 1. -/
theorem test_sendc_expander :
    after (exec (.sendc 0x28) (start .expander 16 2 true 6)) seen = some (five 0x28 0x2C ++ five 0x88 0x8C, [.ok]) := by
  decide +kernel
/-- V-PE-2, SENDC 0x28 on DISCRETE. -/
theorem test_sendc_discrete :
    after (exec (.sendc 0x28) (disc2 14)) seen =
      some (nine false false true false false ++ nine false false false false true, [.ok]) := by decide +kernel
/-- V-PE-1, SENDD 0x41 with BL = 1. -/
theorem test_sendd_expander :
    after (exec (.sendd 0x41) (start .expander 16 2 true 6)) seen = some (five 0x49 0x4D ++ five 0x19 0x1D, [.ok]) := by
  decide +kernel
/-- V-PE-3, SENDD 0x41 with BL = 1, failing at write 3. -/
theorem test_sendd_fails :
    after (exec (.sendd 0x41) (start .expander 16 2 true 2 [.fail])) seen =
      some ([byteEv 0x49, byteEv 0x4D, waitHigh, .failed (.byte 0x27 0x49)], [.busWriteFailure]) := by decide +kernel
/-- V-PE-5, row 4: the register keeps the new value. -/
theorem test_backlight_fails :
    after (exec (.backlight true) (exp2 0 [.fail])) (fun t => (seen t, t.bl)) =
      some (([.failed (.byte 0x27 0x08)], [.busWriteFailure]), true) := by decide +kernel
/-- V-PE-5, row 5. -/
theorem test_backlight_discrete :
    after (exec (.backlight true) (disc2 0)) (fun t => (seen t, t.bl)) = some (([], [.ok]), true) := by decide +kernel
/-- V-PE-6, count 0. -/
theorem test_delayMs_zero : after (exec (.delayMs 0) (exp2 0)) seen = some ([.waitMs 0], [.ok]) := by decide +kernel
/-- V-PE-6. -/
theorem test_delayUs : after (exec (.delayUs 4500) (exp2 0)) seen = some ([.waitUs 4500], [.ok]) := by decide +kernel
/-- V-IS-1: the trace of INIT with BL = 1. -/
theorem test_init_trace :
    after (exec .init (start .expander 16 2 true 43)) (fun t => (seen t, t.seq, t.dctl, t.emode, t.curline)) =
      some ((byteEv 0x08 :: .waitMs 50 :: .waitMs 1000 :: (five 0x38 0x3C ++ [.waitUs 4500]) ++
        (five 0x38 0x3C ++ [.waitUs 4500]) ++ (five 0x38 0x3C ++ [.waitUs 4500]) ++ five 0x28 0x2C ++
        (five 0x28 0x2C ++ five 0x88 0x8C) ++ (five 0x08 0x0C ++ five 0xC8 0xCC) ++
        (five 0x08 0x0C ++ five 0x18 0x1C ++ [.waitMs 2]) ++ (five 0x08 0x0C ++ five 0x68 0x6C) ++
        (five 0x08 0x0C ++ five 0x28 0x2C ++ [.waitMs 2]), [.ok]), .ready, 0b100, 0b10, 0) := by decide +kernel
/-- V-IS-4, failing at write 32: 58 events, `EMODE` already written. -/
theorem test_init_fails :
    after (exec .init (start .expander 16 2 false 31 [.fail]))
        (fun t => (t.trace.length, t.responses, t.seq, t.dctl, t.emode)) =
      some (58, [.initializationFailed], .failed, 0b100, 0b10) := by decide +kernel
/-- 2.3: BLINK 1 from `DCTL` 0b110. -/
theorem test_blink :
    after (exec (.blink true) { exp2 6 with dctl := 0b110 }) (fun t => (seen t, t.dctl)) =
      some ((five 0x00 0x04 ++ five 0xF0 0xF4, [.ok]), 0b111) := by decide +kernel
/-- 2.3: CURSOR 0 from `DCTL` 0b111. -/
theorem test_cursor :
    after (exec (.cursor false) { exp2 6 with dctl := 0b111 }) (fun t => (seen t, t.dctl)) =
      some ((five 0x00 0x04 ++ five 0xD0 0xD4, [.ok]), 0b101) := by decide +kernel
/-- 2.3, the failure corner case: the register is not rolled back. -/
theorem test_cursor_fails :
    after (exec (.cursor true) (exp2 0 [.fail])) (fun t => (seen t, t.dctl)) =
      some (([.failed (.byte 0x27 0x00)], [.busWriteFailure]), 0b110) := by decide +kernel
/-- 2.3: DISPLAY 0 on DISCRETE. -/
theorem test_display_discrete :
    after (exec (.display false) (disc2 14)) seen =
      some (nine false false false false false ++ nine false false false false true, [.ok]) := by decide +kernel
/-- 2.3: AUTOSCROLL 1 from `EMODE` 0b10. -/
theorem test_autoscroll :
    after (exec (.autoscroll true) (exp2 6)) (fun t => (seen t, t.emode)) =
      some ((five 0x00 0x04 ++ five 0x70 0x74, [.ok]), 0b11) := by decide +kernel
/-- 2.3: LEFT_TO_RIGHT from `EMODE` 0b01. -/
theorem test_leftToRight :
    after (exec .leftToRight { exp2 6 with emode := 0b01 }) (fun t => (seen t, t.emode)) =
      some ((five 0x00 0x04 ++ five 0x70 0x74, [.ok]), 0b11) := by decide +kernel
/-- 2.3: RIGHT_TO_LEFT from `EMODE` 0b11. -/
theorem test_rightToLeft :
    after (exec .rightToLeft { exp2 6 with emode := 0b11 }) (fun t => (seen t, t.emode)) =
      some ((five 0x00 0x04 ++ five 0x50 0x54, [.ok]), 0b01) := by decide +kernel
/-- V-TL-2: the sum 0xFF on row 3 of 20x4 is sent as C:ff. -/
theorem test_setCursor_top :
    after (exec (.setCursor 0xAB 3) (exp4 6)) (fun t => (seen t, t.curline)) =
      some ((five 0xF0 0xF4 ++ five 0xF0 0xF4, [.ok]), 3) := by decide +kernel
/-- V-TL-2: the sum 0x100 faults. -/
theorem test_setCursor_overflow : exec (.setCursor 0xAC 3) (exp4 6) = .fault .addressOverflow := rfl
/-- V-TL-7, PRINT_CHAR 'H'. -/
theorem test_printChar :
    after (exec (.printChar 0x48) (exp2 6)) seen = some (five 0x41 0x45 ++ five 0x81 0x85, [.ok]) := by decide +kernel
/-- V-TL-7, PRINT_STR "Hi" failing at write 7. -/
theorem test_printStr_fails :
    after (exec (.printStr [0x48, 0x69]) (exp2 6 [.fail])) seen =
      some (five 0x41 0x45 ++ five 0x81 0x85 ++ [.failed (.byte 0x27 0x61)], [.busWriteFailure]) := by decide +kernel
/-- V-TL-9: index 32 of 35 lands on row 0, 38 transfers. -/
theorem test_printLongStr_wraps :
    after (exec (.printLongStr (List.replicate 35 0x41)) (exp2 228)) (fun t => (t.trace.length, t.curline, t.draws)) =
      some (380, 0, 228) := by decide +kernel
/-- V-TL-10, the last bullet: 17 bytes on 16x2, failing at write 103. -/
theorem test_printLongStr_fails :
    after (exec (.printLongStr (List.replicate 17 0x41)) (exp2 102 [.fail]))
        (fun t => (t.trace.length, t.trace.getLast?, t.curline)) =
      some (171, some (.failed (.byte 0x27 0xC0)), 0) := by decide +kernel
/-- V-TL-8, HOME from `CURLINE` 1. -/
theorem test_home :
    after (exec .home { exp2 6 with curline := 1 }) (fun t => (seen t, t.curline)) =
      some ((five 0x00 0x04 ++ five 0x20 0x24 ++ [.waitMs 2], [.ok]), 1) := by decide +kernel
/-- V-TL-8, CLEAR from `CURLINE` 1. -/
theorem test_clear :
    after (exec .clear { exp2 6 with curline := 1 }) (fun t => (seen t, t.curline)) =
      some ((five 0x00 0x04 ++ five 0x10 0x14 ++ [.waitMs 2], [.ok]), 0) := by decide +kernel
/-- V-TL-8, CLEAR failing at write 1. -/
theorem test_clear_fails :
    after (exec .clear { exp2 0 [.fail] with curline := 1 }) (fun t => (seen t, t.curline)) =
      some (([.failed (.byte 0x27 0x00)], [.busWriteFailure]), 1) := by decide +kernel
/-- V-TL-11, 20x4: from row 1 to row 2, C:94. -/
theorem test_nextLine :
    after (exec .nextLine { exp4 6 with curline := 1 }) (fun t => (seen t, t.curline)) =
      some ((five 0x90 0x94 ++ five 0x40 0x44, [.ok]), 2) := by decide +kernel
/-- V-L1-6: from row 1 of 16x2 it steps to 2 and fails. -/
theorem test_nextLine_documented_wrap :
    after (exec .nextLine { exp2 0 with curline := 1 }) (fun t => (seen t, t.curline)) =
      some (([], [.rowOutOfBounds]), 2) := by decide +kernel
/-- 2.5, CREATE_CHAR 0 with all 0xFF: C:40, then D:ff eight times, unmasked. -/
theorem test_createChar_unmasked :
    after (exec (.createChar 0 (List.replicate 8 0xFF)) (exp2 54)) seen =
      some (five 0x40 0x44 ++ five 0x00 0x04 ++
        (List.replicate 8 (five 0xF1 0xF5 ++ five 0xF1 0xF5)).flatten, [.ok]) := by decide +kernel
/-- 2.5, slot 8. -/
theorem test_createChar_slot :
    after (exec (.createChar 8 (List.replicate 8 0)) (exp2 54)) seen = some ([], [.slotOutOfBounds]) := by
  decide +kernel
/-- V-CMD-1, C:01, with the wait of R331. -/
theorem test_clearDisplay :
    after (exec .clearDisplay { exp2 6 with curline := 1 }) (fun t => (seen t, t.curline)) =
      some ((five 0x00 0x04 ++ five 0x10 0x14 ++ [.waitMs 2], [.ok]), 1) := by decide +kernel
/-- V-CMD-1, C:02, its ignored bit set, with the wait of R332. -/
theorem test_returnHome :
    after (exec (.returnHome 1) (exp2 6)) seen =
      some (five 0x00 0x04 ++ five 0x30 0x34 ++ [.waitMs 2], [.ok]) := by decide +kernel
/-- V-CMD-1, C:06. -/
theorem test_entryModeSet :
    after (exec (.entryModeSet true false) (exp2 6)) seen = some (five 0x00 0x04 ++ five 0x60 0x64, [.ok]) := by
  decide +kernel
/-- V-CMD-1, C:0e. -/
theorem test_displayControl :
    after (exec (.displayControl true true false) (exp2 6)) seen =
      some (five 0x00 0x04 ++ five 0xE0 0xE4, [.ok]) := by decide +kernel
/-- V-CMD-3, 0x18. -/
theorem test_cursorShift :
    after (exec (.cursorShift true false 0) (exp2 6)) seen = some (five 0x10 0x14 ++ five 0x80 0x84, [.ok]) := by
  decide +kernel
/-- V-CMD-1, C:28. -/
theorem test_functionSet :
    after (exec (.functionSet false true false 0) (exp2 6)) seen =
      some (five 0x20 0x24 ++ five 0x80 0x84, [.ok]) := by decide +kernel
/-- V-CMD-1, C:78. -/
theorem test_setCGRAMAddr :
    after (exec (.setCGRAMAddr 0x38) (exp2 6)) seen = some (five 0x70 0x74 ++ five 0x80 0x84, [.ok]) := by
  decide +kernel
/-- V-CMD-1, C:d4. -/
theorem test_setDDRAMAddr :
    after (exec (.setDDRAMAddr 0x54) (exp2 6)) seen = some (five 0xD0 0xD4 ++ five 0x40 0x44, [.ok]) := by
  decide +kernel
/-- V-CMD-1, D:ff. -/
theorem test_writeData :
    after (exec (.writeData 0xFF) (exp2 6)) seen = some (five 0xF1 0xF5 ++ five 0xF1 0xF5, [.ok]) := by decide +kernel
/-- V-CMD-1, C:00. -/
theorem test_reserved00 :
    after (exec .reserved00 (exp2 6)) seen = some (five 0x00 0x04 ++ five 0x00 0x04, [.ok]) := by decide +kernel
/-- V-CMD-2, N3 on DISCRETE, with the wait of R340. -/
theorem test_handshakeNibble3 :
    after (exec .handshakeNibble3 (disc2 7)) seen =
      some (nine false true true false false ++ [.waitUs 4500], [.ok]) := by decide +kernel
/-- V-CMD-2, N2. -/
theorem test_handshakeNibble2 :
    after (exec .handshakeNibble2 (exp2 3)) seen = some (five 0x20 0x24, [.ok]) := by decide +kernel

/-! ### What the controller latches (R157, R419) -/

/-- A failed high nibble's E-low byte: the latch is uncertain (R419, second row). -/
theorem test_latch_uncertain :
    latches { BusImage.allUnknown with outb := .known 0 }
      [byteEv 0x40, byteEv 0x44, waitHigh, .failed (.byte 0x27 0x40)] = [.uncertain] := by decide
/-- DISCRETE: RS and D7..D4 at the falling edge. -/
theorem test_latch_lines :
    latches { BusImage.allUnknown with e := .known false } (nine true false true false true) =
      [.nibble true 0b1010] := by decide

/-! ## Witnesses: for each statement with hypotheses, what meets them -/

theorem witness_DecodeOfEncode :
    (Instr.createChar 7 (List.replicate 8 0xFF)).wf = true ∧ (Instr.printStr []).wf = true ∧
    (Instr.printLongStr [0x41]).wf = true := by decide
theorem witness_EncodeOfDecode : decode (.request 0x20000501#32 []) = .ok (.setCursor 5 1) := by decide
/-- A legal word, and words that break (a) to (e). -/
theorem witness_IllegalRequestsRefused :
    (exp2 0).cfg.cols ≠ 0#8 ∧
    ∀ w ∈ [0x01000000#32, 0x00000000#32, 0x01010000#32, 0x01000100#32, 0x04000002#32, 0x22000001#32],
      { exp2 0 with moves := [.issue (.request w [])] }.moves = .issue (.request w []) :: [] :=
  ⟨by decide, fun _ _ => rfl⟩
/-- A host's request word, and a NIB5 word, whose arrival is the model's (log 5). -/
theorem witness_StepRunsDecoded :
    (exp2 0).cfg.cols ≠ 0#8 ∧
    { exp2 0 with moves := [.issue (.request 0x24000000#32 [])] }.moves = .issue (.request 0x24000000#32 []) :: [] ∧
    decode (.request 0x24000000#32 []) = .ok .home ∧
    { exp2 0 with moves := [.issue (.nibble 3#5)] }.moves = .issue (.nibble 3#5) :: [] ∧
    decode (.nibble 3#5) = .ok .handshakeNibble3 := by decide
theorem witness_IdleAndPowerLoss :
    (exp2 0).cfg.cols ≠ 0#8 ∧ (exp2 0).moves = [] ∧
    { exp2 0 with moves := [.powerLoss] }.moves = .powerLoss :: [] := by decide
theorem witness_ConstructionChecksCols :
    { Config.standard with cols := 0 }.cols = 0#8 ∧ { Config.standard with cols := 1 }.cols ≠ 0#8 ∧
    { Config.standard with cols := 0xFF, rows := 0 }.cols ≠ 0#8 := by decide

/-- Sends on both variants with every write answered `Ok`: SendcCompletes, SenddCompletes,
DisplayControlRequestsComplete, EntryModeRequestsComplete, HomeRequest, ClearRequest, CommandTransfersComplete and the first
clause of PrintCompletes. -/
theorem witness_sends_complete :
    AllOk (2 * nibbleWrites (exp2 6).cfg) (exp2 6) ∧ AllOk (2 * nibbleWrites (disc2 14).cfg) (disc2 14) := by
  decide +kernel
/-- Sends that fail at their first and at their last write, on both variants: FailedSendStops,
DisplayStateKeptOnFailure, HomeRequest, ClearRequest. -/
theorem witness_sends_fail :
    (0 < 2 * nibbleWrites (exp2 0).cfg ∧ FailsAfter 0 (exp2 0 [.fail])) ∧
    (5 < 2 * nibbleWrites (exp2 0).cfg ∧ FailsAfter 5 (exp2 5 [.fail])) ∧
    (0 < 2 * nibbleWrites (disc2 0).cfg ∧ FailsAfter 0 (disc2 0 [.fail])) ∧
    (13 < 2 * nibbleWrites (disc2 0).cfg ∧ FailsAfter 13 (disc2 13 [.fail])) := by decide +kernel
/-- A nibble transaction that fails at its first and at its last write: the second half of FailedSendStops. -/
theorem witness_FailedSendStops :
    (0 < nibbleWrites (exp2 0).cfg ∧ FailsAfter 0 (exp2 0 [.fail])) ∧
    (2 < nibbleWrites (exp2 0).cfg ∧ FailsAfter 2 (exp2 2 [.fail])) ∧
    (6 < nibbleWrites (disc2 0).cfg ∧ FailsAfter 6 (disc2 6 [.fail])) := by decide +kernel
theorem witness_BacklightSets :
    ((exp2 1).cfg.variant = .expander ∧ AllOk 1 (exp2 1)) ∧
    ((exp2 0 [.fail]).cfg.variant = .expander ∧ FailsAfter 0 (exp2 0 [.fail])) ∧
    (disc2 0).cfg.variant = .discrete := by decide +kernel
/-- An instruction that answers a next state, with new events: BacklightInEveryByte, ResponsesFollowMatrix,
RegisterAccessMatrix, EventsOnlyGrow. -/
theorem witness_exec_next :
    (after (exec (.sendd 0x41) (exp2 6)) fun t => decide (byteEv 0x41 ∈ newEvents (exp2 6) t)) = some true := by
  decide +kernel
theorem witness_DiscreteHidesBacklight :
    (disc2 14).cfg.variant = .discrete ∧ ∃ t, exec (.sendc 0x28) (disc2 14) = .next t := ⟨rfl, _, rfl⟩
theorem witness_NoGatingBySequencer : Instr.sendc 0x01 ≠ .init := by decide
/-- From POWER_UP on EXPANDER and from FAILED on DISCRETE: InitCompletes, InitEventCounts and LeastWaits. -/
theorem witness_InitCompletes :
    ((start .expander 16 2 false 43).seq = .powerUp ∧
      AllOk (initWrites (start .expander 16 2 false 43).cfg) (start .expander 16 2 false 43)) ∧
    ({ start .discrete 16 1 false 104 with seq := .failed }.seq = .failed ∧
      AllOk (initWrites (start .discrete 16 1 false 104).cfg) { start .discrete 16 1 false 104 with seq := .failed }) := by
  decide +kernel
/-- INIT failing at its first write, at the two writes where a register has just been written, and at its last. -/
theorem witness_InitFails :
    ∀ k ∈ [0, 18, 19, 30, 31, 42],
      k < initWrites (start .expander 16 2 false 0).cfg ∧ FailsAfter k (start .expander 16 2 false k [.fail]) ∧
      (start .expander 16 2 false k [.fail]).seq = .powerUp := by decide +kernel
theorem witness_InitFails_discrete :
    103 < initWrites (start .discrete 16 2 false 0).cfg ∧ FailsAfter 103 (start .discrete 16 2 false 103 [.fail]) ∧
    { start .discrete 16 2 false 103 [.fail] with seq := .failed }.seq = .failed := by decide +kernel
theorem witness_InitRefusedWhenReady : (exp2 0).seq = .ready := by decide
theorem witness_InitEventCounts :
    (start .expander 16 2 false 43).cfg.variant = .expander ∧ (start .discrete 16 1 false 104).cfg.variant = .discrete := by
  decide
/-- READY, and a step: power loss, and a request. -/
theorem witness_ReadyLeftOnlyByPowerLoss :
    (exp2 0).seq = .ready ∧ (∃ t, step { exp2 0 with moves := [.powerLoss] } = .next t ∧ t.seq = .powerUp) ∧
    ∃ t, step { exp2 0 with moves := [.issue (.request 0x05000002#32 [])] } = .next t ∧ t.seq = .ready :=
  ⟨rfl, ⟨_, rfl, rfl⟩, ⟨_, rfl, rfl⟩⟩
/-- Mapped rows at the largest sum that fits, with the send answered `Ok`: SetCursorCompletes. -/
theorem witness_SetCursorCompletes :
    ((exp4 6).cfg.rows, 3#8, 0x54) ∈ rowOffsetTable ∧ (0xAB#8).toNat + 0x54 ≤ 0xFF ∧
    ((exp2 6).cfg.rows, 0#8, 0x00) ∈ rowOffsetTable ∧ (0xFF#8).toNat + 0x00 ≤ 0xFF ∧
    AllOk (2 * nibbleWrites (exp4 6).cfg) (exp4 6) ∧ AllOk (2 * nibbleWrites (exp2 6).cfg) (exp2 6) := by
  decide +kernel
theorem witness_FailedSetCursorKeepsLine :
    ((exp2 5).cfg.rows, 1#8, 0x40) ∈ rowOffsetTable ∧ (0xBF#8).toNat + 0x40 ≤ 0xFF ∧
    5 < 2 * nibbleWrites (exp2 5).cfg ∧ FailsAfter 5 (exp2 5 [.fail]) := by decide +kernel
/-- Row 2 of two rows; rows 2 and 3 of three, where only the first is in range. -/
theorem witness_SetCursorChecks :
    (exp2 0).cfg.rows ≤ 2#8 ∧ (start .expander 16 3 false 0).cfg.rows ≤ 3#8 ∧
    (2#8 < (start .expander 16 3 false 0).cfg.rows ∧ ¬ supportedRows (start .expander 16 3 false 0).cfg) := by decide
theorem witness_AddressOverflowFaults :
    ((exp4 0).cfg.rows, 3#8, 0x54) ∈ rowOffsetTable ∧ 0xFF < (0xAC#8).toNat + 0x54 ∧
    exec (.setCursor 0xAC 3) (exp4 0) = .fault .addressOverflow := ⟨by decide, by decide, rfl⟩
theorem witness_PrintCompletes :
    AllOk (2 * nibbleWrites (exp2 12).cfg * [0x48#8, 0x69#8].length) (exp2 12) ∧
    AllOk (2 * nibbleWrites (exp2 0).cfg * ([] : List Byte).length) (exp2 0) := by decide +kernel
/-- On one, two and four rows; the empty string, and a string that starts a second segment. -/
theorem witness_PrintLongStrCompletes :
    (∀ rows ∈ [1#8, 2#8, 4#8], supportedRows (start .expander 2 rows false 30).cfg) ∧
    (start .expander 2 2 false 30).cfg.cols ≠ 0#8 ∧
    AllOk (attempts (sendEvents (start .expander 2 2 false 30).cfg false 0x80#8 false ++
      longEvents (start .expander 2 2 false 30).cfg false 0 [0x61, 0x62, 0x63])) (start .expander 2 2 false 30) ∧
    AllOk (attempts (sendEvents (exp2 6).cfg false 0x80#8 false ++ longEvents (exp2 6).cfg false 0 [])) (exp2 6) := by
  decide +kernel
theorem witness_PrintLongStrChecks :
    (start .expander 16 0 false 0).cfg.rows = 0#8 ∧ (start .expander 16 3 false 0).cfg.rows ≠ 0#8 ∧
    ¬ supportedRows (start .expander 16 3 false 0).cfg := by decide
/-- Each of the three requests failing at its last write; and for 17 bytes on 16x2 (V-TL-10, the last bullet) the line a
failed write leaves at the last write of the first cursor move, at the one after it, and likewise for the second. -/
theorem witness_ComposedRequestsStop :
    FailsAfter 11 (exp2 11 [.fail]) ∧ 11 < attempts (dataEvents (exp2 0).cfg false [0x48, 0x69]) ∧
    ((exp2 0).cfg.cols ≠ 0#8 ∧ supportedRows (exp2 0).cfg ∧
      11 < attempts (sendEvents (exp2 0).cfg false 0x80#8 false ++ longEvents (exp2 0).cfg false 0 [0x41])) ∧
    movedLine (exp2 0).cfg 9 (some 0 :: longMoves (exp2 0).cfg 0 (List.replicate 17 0x41)) 5 = 9 ∧
    movedLine (exp2 0).cfg 9 (some 0 :: longMoves (exp2 0).cfg 0 (List.replicate 17 0x41)) 6 = 0 ∧
    movedLine (exp2 0).cfg 9 (some 0 :: longMoves (exp2 0).cfg 0 (List.replicate 17 0x41)) 107 = 0 ∧
    movedLine (exp2 0).cfg 9 (some 0 :: longMoves (exp2 0).cfg 0 (List.replicate 17 0x41)) 108 = 1 ∧
    (7#8 ≤ 7#8 ∧ 11 < attempts (sendEvents (exp2 0).cfg false (0x40#8 ||| (7#8) <<< 3) false ++
      dataEvents (exp2 0).cfg false (List.replicate 8 0))) := by decide +kernel
/-- From row 0 of two rows to row 1, and from a `CURLINE` of `CFG.ROWS` to row 0; the send failing at its first write, as
in the last row of V-TL-11, and at its last. -/
theorem witness_NextLineCompletes :
    (exp2 6).cfg.rows ≠ 1#8 ∧ ((exp2 6).cfg.rows, 1#8, 0x40) ∈ rowOffsetTable ∧
    (1#8).toNat = (if (exp2 6).cfg.rows ≤ (exp2 6).curline then 0 else (exp2 6).curline.toNat + 1) ∧
    AllOk (2 * nibbleWrites (exp2 6).cfg) (exp2 6) ∧
    ((exp2 6).cfg.rows, 0#8, 0x00) ∈ rowOffsetTable ∧
    (0#8).toNat = (if (exp2 6).cfg.rows ≤ { exp2 6 with curline := 2 }.curline then 0
      else { exp2 6 with curline := 2 }.curline.toNat + 1) ∧
    (0 < 2 * nibbleWrites (exp2 0).cfg ∧ FailsAfter 0 (exp2 0 [.fail]) ∧
      after (exec .nextLine (exp2 0 [.fail])) (fun t => (seen t, t.curline)) =
        some (([.failed (.byte 0x27 0xC0)], [.busWriteFailure]), 1)) ∧
    (5 < 2 * nibbleWrites (exp2 0).cfg ∧ FailsAfter 5 (exp2 5 [.fail])) := by decide +kernel
/-- Each clause of NextLineChecks, at the row counts 1, 2, 0 and 3. -/
theorem witness_NextLineChecks :
    (start .expander 16 1 false 0).cfg.rows = 1#8 ∧
    ((exp2 0).cfg.rows ≠ 1#8 ∧ { exp2 0 with curline := 1 }.curline.toNat + 1 = (exp2 0).cfg.rows.toNat) ∧
    (start .expander 16 0 false 0).cfg.rows = 0#8 ∧
    (¬ supportedRows (start .expander 16 3 false 0).cfg ∧ (start .expander 16 3 false 0).cfg.rows ≠ 0#8 ∧
      { start .expander 16 3 false 0 with curline := 1 }.curline.toNat + 1 <
        (start .expander 16 3 false 0).cfg.rows.toNat) ∧
    (start .expander 16 3 false 0).cfg.rows ≤ { start .expander 16 3 false 0 with curline := 3 }.curline := by decide
theorem witness_CreateCharCompletes :
    7#8 ≤ 7#8 ∧ (List.replicate 8 0xFF#8).length = 8 ∧ AllOk (9 * (2 * nibbleWrites (exp2 54).cfg)) (exp2 54) := by
  decide +kernel
theorem witness_CreateCharChecksSlot : 7#8 < 8#8 ∧ 7#8 < 0xFF#8 := by decide
theorem witness_HandshakeNibblesComplete :
    AllOk (nibbleWrites (exp2 3).cfg) (exp2 3) ∧ AllOk (nibbleWrites (disc2 7).cfg) (disc2 7) := by decide +kernel
/-- Each of the five requests of OneBitWritten answers a next state. -/
theorem witness_OneBitWritten :
    ∀ i ∈ [Instr.display true, .cursor false, .blink true, .autoscroll false, .leftToRight, .rightToLeft],
      (after (exec i (exp2 6)) fun _ => ()) = some () := by decide +kernel
/-- A state of the invariant, and a step from it. -/
theorem witness_StepKeepsInvariant :
    Inv { exp2 6 with moves := [.issue (.request 0x24000000#32 [])] } ∧
    ∃ t, step { exp2 6 with moves := [.issue (.request 0x24000000#32 [])] } = .next t :=
  ⟨⟨by decide, by decide, by decide, by decide, by decide⟩, _, rfl⟩
theorem witness_InvariantAtReset : Config.standard.cols ≠ 0#8 := by decide
/-- Enable low on both variants, with the answers of SendLatchesValue, PrintStrLatchesText and (one side of) InitLatchesHandshake. -/
theorem witness_enable_low :
    enableLevel .expander { BusImage.allUnknown with outb := .known 0x08 } = .known false ∧
    enableLevel .discrete { BusImage.allUnknown with e := .known false } = .known false ∧
    AllOk (2 * nibbleWrites (exp2 6).cfg)
      { exp2 6 with image := { BusImage.allUnknown with outb := .known 0x08 } } ∧
    AllOk (2 * nibbleWrites (exp2 12).cfg * [0x48#8, 0x69#8].length)
      { exp2 12 with image := { BusImage.allUnknown with outb := .known 0x08 } } ∧
    { start .discrete 16 2 false 104 with image := { BusImage.allUnknown with e := .known false } }.seq = .powerUp ∧
    AllOk (initWrites (start .discrete 16 2 false 104).cfg)
      { start .discrete 16 2 false 104 with image := { BusImage.allUnknown with e := .known false } } := by
  decide +kernel
/-- After reset Enable's level is unknown: the other side of InitLatchesHandshake, on both variants. -/
theorem witness_InitLatchesHandshake :
    (start .expander 16 2 false 43).seq = .powerUp ∧ (start .discrete 16 2 false 104).seq = .powerUp ∧
    enableLevel .expander (start .expander 16 2 false 43).image = .unknown ∧
    enableLevel .discrete (start .discrete 16 2 false 104).image = .unknown ∧
    AllOk (initWrites (start .expander 16 2 false 43).cfg) (start .expander 16 2 false 43) ∧
    AllOk (initWrites (start .discrete 16 2 false 104).cfg) (start .discrete 16 2 false 104) := by
  decide +kernel
/-- SENDC and SENDD that fail at each of their writes on EXPANDER, from Enable low: FailedSendLatches. -/
theorem witness_FailedSendLatches :
    ∀ i ∈ [Instr.sendc 0x28, .sendd 0x28], ∀ k ∈ [0, 1, 2, 3, 4, 5],
      k < 2 * nibbleWrites (exp2 0).cfg ∧
      FailsAfter k { exp2 k [.fail] with image := { BusImage.allUnknown with outb := .known 0 } } ∧
      (after (exec i { exp2 k [.fail] with image := { BusImage.allUnknown with outb := .known 0 } })
        fun _ => ()) = some () := by decide +kernel
/-- After reset Enable's level is unknown, on both variants: EnableLeftHigh. -/
theorem witness_EnableLeftHigh :
    enableLevel (start .expander 16 2 false 6).cfg.variant (start .expander 16 2 false 6).image = .unknown ∧
    AllOk (2 * nibbleWrites (start .expander 16 2 false 6).cfg) (start .expander 16 2 false 6) ∧
    enableLevel (start .discrete 16 2 false 14).cfg.variant (start .discrete 16 2 false 14).image = .unknown ∧
    AllOk (2 * nibbleWrites (start .discrete 16 2 false 14).cfg) (start .discrete 16 2 false 14) := by decide +kernel
/-- The default timing, and the answers of each clause of LeastWaits. -/
theorem witness_LeastWaits :
    (exp2 6).cfg.DefaultTiming ∧ AllOk (2 * nibbleWrites (exp2 6).cfg) (exp2 6) ∧
    AllOk (nibbleWrites (exp2 3).cfg) (exp2 3) ∧
    ((start .expander 16 2 false 43).cfg.DefaultTiming ∧ (start .expander 16 2 false 43).seq = .powerUp ∧
      AllOk (initWrites (start .expander 16 2 false 43).cfg) (start .expander 16 2 false 43)) ∧
    (7#8 ≤ 7#8 ∧ (List.replicate 8 0#8).length = 8 ∧ AllOk (9 * (2 * nibbleWrites (exp2 54).cfg)) (exp2 54)) ∧
    AllOk (2 * nibbleWrites (exp2 12).cfg * [0x48#8, 0x69#8].length) (exp2 12) := by decide +kernel

end Sys2Proof.Tests
end

/-! PROOFS. The statements of 00_scope.md: a step runs the next move (R9, R12), and an instruction only appends its own
events to the observation (R10). -/

namespace Sys2Proof.Proofs

open Sys2Proof.Machine Sys2Proof.Safety Sys2Proof.Laws

/-! ## What arrives at the ports, and the step it makes -/

/-- With no move left nothing arrives (R12). -/
theorem arrive_idle {s : State} (hc : s.cfg.cols ≠ 0#8) (hm : s.moves = []) : arrive s = .idle := by
  simp [arrive, hc, hm]

/-- A power loss arrives as the state after it (R412). -/
theorem arrive_powerLoss {s : State} {ms : List Move} (hc : s.cfg.cols ≠ 0#8) (hm : s.moves = .powerLoss :: ms) :
    arrive s = .lost (powerLoss (s.setMoves ms)) := by
  simp [arrive, hc, hm]

/-- A port word arrives in the state where its move has been taken (R12). -/
theorem arrive_issue {s : State} {p : PortWord} {ms : List Move} (hc : s.cfg.cols ≠ 0#8)
    (hm : s.moves = .issue p :: ms) : arrive s = arrivalOf p (s.setMoves ms) := by
  simp [arrive, hc, hm]

/-- A word that decodes arrives as its instruction (R104, R374). -/
theorem arrivalOf_decoded {p : PortWord} {i : Instr} (hd : decode p = .ok i) (t : State) :
    arrivalOf p t = .run i t := by
  simp [arrivalOf, hd]

/-- What arrives says what the step does (R9): nothing, the state after a power loss, or one instruction. -/
theorem step_of_idle {s : State} (h : arrive s = .idle) : step s = .next s := by
  simp [step, h]

theorem step_of_lost {s t : State} (h : arrive s = .lost t) : step s = .next t := by
  simp [step, h]

theorem step_of_run {s t : State} {i : Instr} (h : arrive s = .run i t) : step s = exec i t := by
  simp [step, h]

/-- Settles O7: the word arrives as its instruction, and the step is that instruction's meaning. -/
theorem stepRunsDecoded : Obligations.StepRunsDecoded := by
  intro s p ms i hc hm hd
  have ha : arrive s = .run i (s.setMoves ms) := (arrive_issue hc hm).trans (arrivalOf_decoded hd _)
  exact step_of_run ha

/-- Settles O8: the two moves that run no instruction. -/
theorem idleAndPowerLoss : Obligations.IdleAndPowerLoss := by
  intro s hc
  constructor
  · intro hm
    exact step_of_idle (arrive_idle hc hm)
  · intro ms hm
    exact step_of_lost (arrive_powerLoss hc hm)

/-! ## The events of an instruction -/

/-- The registers a request writes are none of the observation's: what it ends in is the starting observation, bus image
and answers, moved on by its own events (R10, R41, R151). -/
theorem finished_observation {i : Instr} {s r t : State} {es : List Event} {code : Code} {xv : Byte} {xrs : Bool}
    {nib : Byte} (regs : RegsFrom i s r) (ht : t = finished (withWork r xv xrs nib) es code) :
    t.trace = s.trace ++ es ∧ t.responses = s.responses ++ [code] ∧ t.draws = s.draws + attempts es ∧
    t.answers = s.answers.drop (attempts es) ∧ t.image = es.foldl imageAfter s.image := by
  obtain ⟨_, _, _, _, _, rfl⟩ := regs.same
  subst ht
  exact ⟨rfl, rfl, rfl, rfl, rfl⟩

/-- After a program that went through, the `Failed` event behind it is the only one: none stands before the end. -/
theorem failed_is_last {ps : List Prim} {w w' : BusWrite} {front back : List Event}
    (h : progEvents ps ++ [.failed w] = front ++ .failed w' :: back) : back = [] := by
  rcases back.eq_nil_or_concat with hb | ⟨init, e, rfl⟩
  · exact hb
  · have hp : progEvents ps = front ++ .failed w' :: init :=
      List.append_inj_left' (h.trans (by simp : _ = (front ++ .failed w' :: init) ++ [e])) rfl
    exact absurd (hp ▸ List.mem_append_right _ (List.mem_cons_self ..)) (failed_not_mem ps w')

/-- Settles O51, by the two ways an instruction ends (`exec_ends`): whole, with no `Failed` event at all, or cut at its
first failed write, which is then its last event (R152). -/
theorem eventsOnlyGrow : Obligations.EventsOnlyGrow := by
  intro i s t h
  cases exec_ends h with
  | whole r ps code xv xrs nib regs fits answered noBus row =>
    obtain ⟨htrace, hresponses, hdraws, hanswers, himage⟩ := finished_observation regs rfl
    refine ⟨progEvents ps, code, htrace, hresponses, hdraws, hanswers, himage, fun front w back he => ?_, ?_⟩
    · exact absurd (he ▸ List.mem_append_right _ (List.mem_cons_self ..)) (failed_not_mem ps w)
    · exact ⟨fun ⟨w, hw⟩ => absurd hw (failed_not_mem ps w), fun hb => absurd hb (not_or.mpr noBus)⟩
  | cut r ps k code xv xrs nib regs fits lt fails bus row =>
    obtain ⟨qs, w, hcut, -, -⟩ := cutAt_eq ps k lt
    rw [hcut]
    obtain ⟨htrace, hresponses, hdraws, hanswers, himage⟩ := finished_observation regs rfl
    exact ⟨progEvents qs ++ [.failed w], code, htrace, hresponses, hdraws, hanswers, himage,
      fun _ _ _ he => failed_is_last he, fun _ => bus, fun _ => ⟨w, by simp⟩⟩

end Sys2Proof.Proofs

/-! PROOFS. The statements of 10_state.md: the reset state (R31), the sequencer's codes (R37), the register access
matrix (R43), the invariant of the machine (R31, R37, R39, R41), and the backlight latch on DISCRETE (R34). -/

namespace Sys2Proof.Proofs

open Sys2Proof.Machine Sys2Proof.Safety Sys2Proof.Laws

/-! ## What a step and an instruction can do -/

/-- A step that answers a next state idles, loses the power, or runs the instruction of the next port word (R9, R12). -/
theorem step_next {s t : State} (h : step s = .next t) :
    (s.moves = [] ∧ t = s) ∨ (∃ ms, s.moves = .powerLoss :: ms ∧ t = powerLoss (s.setMoves ms)) ∨
    ∃ p i ms, s.moves = .issue p :: ms ∧ decode p = .ok i ∧ exec i (s.setMoves ms) = .next t := by
  by_cases hc : s.cfg.cols = 0#8
  · simp [step, arrive, hc] at h
  cases hm : s.moves with
  | nil =>
    rw [step_of_idle (arrive_idle hc hm)] at h
    cases h
    exact .inl ⟨rfl, rfl⟩
  | cons m ms =>
    cases m with
    | powerLoss =>
      rw [step_of_lost (arrive_powerLoss hc hm)] at h
      cases h
      exact .inr (.inl ⟨ms, rfl, rfl⟩)
    | issue p =>
      have ha := arrive_issue hc hm
      cases hd : decode p with
      | error why => simp [step, ha, arrivalOf, hd] at h
      | ok i =>
        rw [arrivalOf_decoded hd] at ha
        exact .inr (.inr ⟨p, i, ms, rfl, hd, step_of_run ha ▸ h⟩)

/-- A program that stops at its write `k` has put only events of the block on the bus, the failed one too. -/
theorem cutAt_fits {c : Config} {bl : Bool} {ps : List Prim} {k : Nat} (fits : progFits c bl ps)
    (lt : k < attempts (progEvents ps)) : ∀ e ∈ cutAt k (progEvents ps), eventFits c e = true := by
  obtain ⟨qs, w, hcut, hw, hqs⟩ := cutAt_eq ps k lt
  intro e he
  rw [hcut] at he
  rcases List.mem_append.mp he with he | he
  · obtain ⟨q, hq, rfl⟩ := List.mem_map.mp he
    exact (fits q (hqs q hq)).1
  · rw [List.mem_singleton.mp he]
    exact (fits _ hw).1

/-- The state an instruction ends in: the registers of its row written, then events of the block and one response. -/
theorem exec_finishes {i : Instr} {s t : State} (h : exec i s = .next t) :
    ∃ r es code xv xrs nib, RegsFrom i s r ∧ (∀ e ∈ es, eventFits s.cfg e = true) ∧
      t = finished (withWork r xv xrs nib) es code := by
  cases exec_ends h with
  | whole r ps code xv xrs nib regs fits answered noBus row =>
    refine ⟨r, progEvents ps, code, xv, xrs, nib, regs, fun e he => ?_, rfl⟩
    obtain ⟨p, hp, rfl⟩ := List.mem_map.mp he
    exact (fits p hp).1
  | cut r ps k code xv xrs nib regs fits lt fails bus row =>
    exact ⟨r, cutAt k (progEvents ps), code, xv, xrs, nib, regs, cutAt_fits fits lt, rfl⟩

/-- The configuration and the moves to come are none of the registers a request writes (R12, R30). -/
theorem finished_cfg_moves {i : Instr} {s r t : State} {es : List Event} {code : Code} {xv : Byte} {xrs : Bool}
    {nib : Byte} (regs : RegsFrom i s r) (ht : t = finished (withWork r xv xrs nib) es code) :
    t.cfg = s.cfg ∧ t.moves = s.moves := by
  obtain ⟨_, _, _, _, _, rfl⟩ := regs.same
  subst ht
  exact ⟨rfl, rfl⟩

/-! ## The invariant of the machine -/

/-- A bus image nothing has been driven on fits both variants (R41). -/
theorem imageFits_allUnknown (c : Config) : imageFits c BusImage.allUnknown = true := by
  cases hv : c.variant <;> simp [imageFits, hv, BusImage.allUnknown]

/-- A write of the variant, answered or failed, drives only the variant's part of the image (R41, R71, R106). -/
theorem imageFits_put {c : Config} {m : BusImage} {w : BusWrite} (hm : imageFits c m = true)
    (hw : writeFits c w = true) (known : Bool) : imageFits c (m.put w known) = true := by
  cases w with
  | byte addr b =>
    obtain ⟨⟨hv, -⟩, hb⟩ : (c.variant = .expander ∧ addr = c.i2cAddr) ∧ b[1] = false := by
      simpa [writeFits] using hw
    simp only [imageFits, hv, Bool.and_eq_true] at hm
    cases known <;> simp [imageFits, BusImage.put, hv, hb, hm]
  | line l v =>
    have hv : c.variant = .discrete := by simpa [writeFits] using hw
    cases l <;> simpa [imageFits, BusImage.put, hv] using hm

/-- Events of the block keep the image one of its variant (R41). -/
theorem imageFits_foldl {c : Config} {es : List Event} {m : BusImage} (hm : imageFits c m = true)
    (hes : ∀ e ∈ es, eventFits c e = true) : imageFits c (es.foldl imageAfter m) = true := by
  induction es generalizing m with
  | nil => exact hm
  | cons e es ih =>
    have he : eventFits c e = true := hes e (List.mem_cons_self ..)
    refine ih ?_ fun e' he' => hes e' (List.mem_cons_of_mem _ he')
    cases e with
    | write w => exact imageFits_put hm he true
    | failed w => exact imageFits_put hm he false
    | waitUs n => exact hm
    | waitMs n => exact hm

/-- Losing the power keeps the invariant: the reset state meets it, and the events seen so far stay (R411, R412). -/
theorem inv_powerLoss {s : State} (hs : Inv s) : Inv (powerLoss s) where
  cols := hs.cols
  seq := rfl
  curline := Nat.zero_le _
  trace := hs.trace
  image := imageFits_allUnknown s.cfg

/-- Taking a move off the list keeps the invariant, which does not speak of the moves. -/
theorem inv_setMoves {s : State} (hs : Inv s) (ms : List Move) : Inv (s.setMoves ms) :=
  ⟨hs.cols, hs.seq, hs.curline, hs.trace, hs.image⟩

/-- Every instruction keeps the invariant: the registers it may write hold what R37 and R39 allow, and its events are
events of the block. -/
theorem exec_keeps_inv {i : Instr} {s t : State} (hs : Inv s) (h : exec i s = .next t) : Inv t := by
  obtain ⟨r, es, code, xv, xrs, nib, regs, hes, ht⟩ := exec_finishes h
  obtain ⟨htrace, -, -, -, himage⟩ := finished_observation regs ht
  obtain ⟨hcfg, -⟩ := finished_cfg_moves regs ht
  have hseq : t.seq = r.seq := by rw [ht]; rfl
  have hline : t.curline = r.curline := by rw [ht]; rfl
  refine ⟨?_, ?_, ?_, ?_, ?_⟩
  · rw [hcfg]
    exact hs.cols
  · rw [hseq]
    rcases regs.seq with hr | ⟨-, hr | hr⟩ <;> rw [hr]
    · exact hs.seq
    · rfl
    · rfl
  · rw [hline, hcfg]
    rcases regs.curline with hr | ⟨-, hr⟩
    · rw [hr]
      exact hs.curline
    · exact hr
  · rw [htrace, hcfg]
    exact fun e he => (List.mem_append.mp he).elim (hs.trace e) (hes e)
  · rw [himage, hcfg]
    exact imageFits_foldl hs.image hes

/-- Settles O53, by what a step can do (`step_next`): idling, power loss and each instruction keep the invariant. -/
theorem stepKeepsInvariant : Obligations.StepKeepsInvariant := by
  intro s t hs h
  rcases step_next h with ⟨-, rfl⟩ | ⟨ms, -, rfl⟩ | ⟨-, i, ms, -, -, hx⟩
  · exact hs
  · exact inv_powerLoss (inv_setMoves hs ms)
  · exact exec_keeps_inv (inv_setMoves hs ms) hx

/-! ## Registers written -/

/-- INIT is refused in READY (R200). -/
theorem exec_init_ready {s : State} (h : s.seq = .ready) : exec .init s = .refused .initAfterReady := if_pos h

/-- INIT runs the whole sequence in every other state of `SEQ` (R200, R213). -/
theorem exec_init_notReady {s : State} (h : s.seq ≠ .ready) : exec .init s = reply (runSequencer initOrder s) := if_neg h

/-- Settles O28: only INIT writes `SEQ`, and it is refused in READY. -/
theorem readyLeftOnlyByPowerLoss : Obligations.ReadyLeftOnlyByPowerLoss := by
  intro s t hs h
  rcases step_next h with ⟨-, rfl⟩ | ⟨ms, hm, -⟩ | ⟨-, i, ms, -, -, hx⟩
  · exact .inl hs
  · exact .inr ⟨ms, hm⟩
  · obtain ⟨r, es, code, xv, xrs, nib, regs, -, rfl⟩ := exec_finishes hx
    rcases regs.seq with hr | ⟨rfl, -⟩
    · exact .inl (hr.trans hs)
    · rw [exec_init_ready (s := s.setMoves ms) hs] at hx
      cases hx

/-- Settles O49: each register of the state an instruction ends in is the one of `RegsFrom`, which names the rows that
write it. -/
theorem registerAccessMatrix : Obligations.RegisterAccessMatrix := by
  intro i s t h
  obtain ⟨r, es, code, xv, xrs, nib, regs, -, ht⟩ := exec_finishes h
  obtain ⟨hcfg, hmoves⟩ := finished_cfg_moves regs ht
  subst ht
  refine ⟨hcfg, hmoves, fun hi => ?_, fun hinit hi => ?_, fun hinit hl hr ha => ?_,
    fun hinit hcl hn hc hp => ?_, fun hinit => ?_⟩
  · exact regs.bl.resolve_right fun ⟨on, h⟩ => hi on h
  · rcases regs.dctl with h | h | ⟨on, ⟨h, -⟩ | ⟨h, -⟩ | ⟨h, -⟩⟩
    · exact h
    · exact absurd h hinit
    · exact absurd h (hi on).1
    · exact absurd h (hi on).2.1
    · exact absurd h (hi on).2.2
  · rcases regs.emode with h | h | ⟨on, h, -⟩ | ⟨_, h, -⟩
    · exact h
    · exact absurd h hinit
    · exact absurd h (ha on)
    · exact absurd h (not_or.mpr ⟨hl, hr⟩)
  · rcases regs.curline with h | ⟨h | h | h | ⟨col, row, h⟩ | ⟨str, h⟩, -⟩
    · exact h
    · exact absurd h hinit
    · exact absurd h hcl
    · exact absurd h hn
    · exact absurd h (hc col row)
    · exact absurd h (hp str)
  · exact regs.seq.resolve_right fun ⟨h, _⟩ => hinit h

/-! ## Construction and the sequencer's codes -/

/-- Settles O10: construction has no other check than that of `CFG.COLS`. -/
theorem constructionChecksCols : Obligations.ConstructionChecksCols :=
  fun _ => ⟨fun h => if_pos h, fun h => if_neg h⟩

/-- Settles O23: the codes of `initOrder` are counted out. -/
theorem sequencerOrder : Obligations.SequencerOrder := ⟨by decide, rfl, rfl, rfl⟩

/-! ## Registers a request does not depend on

`relabel g h` puts other contents into `BL` and `SEQ`. No part of a request reads `SEQ` (R165), and `BL` reaches the
bus on EXPANDER only (R34): where the bus cannot tell (`Silent`), every part of a request does the same from the
relabelled state and keeps the new contents (`Unread`). -/

/-- `s` with `BL` and `SEQ` changed by `g` and `h`. -/
def relabel (g : Bool → Bool) (h : Seq → Seq) (s : State) : State := { s with bl := g s.bl, seq := h s.seq }

@[simp] theorem relabel_cfg (g : Bool → Bool) (h : Seq → Seq) (s : State) : (relabel g h s).cfg = s.cfg := rfl

/-- The same of what a part of a request has come to. -/
def relabelRun (g : Bool → Bool) (h : Seq → Seq) (r : Run) : Run := ⟨relabel g h r.st, r.code⟩

/-- The same of an outcome. -/
def relabelOutcome (g : Bool → Bool) (h : Seq → Seq) :
    Host.Outcome State Fault Refusal → Host.Outcome State Fault Refusal
  | .next s => .next (relabel g h s)
  | .fault r => .fault r
  | .refused r => .refused r

/-- The bus does not show that `BL` was changed by `g`: DISCRETE has no backlight line (R34, R422). -/
def Silent (c : Config) (g : Bool → Bool) : Prop := c.variant = .discrete ∨ g = id

/-- With the configuration `c`, `f` neither reads nor writes what `g` and `h` change, and it keeps the configuration. -/
def Unread (c : Config) (g : Bool → Bool) (h : Seq → Seq) (f : State → Run) : Prop :=
  ∀ s, s.cfg = c → f (relabel g h s) = relabelRun g h (f s) ∧ (f s).st.cfg = c

section
variable {c : Config} {g : Bool → Bool} {h : Seq → Seq}

theorem nibblePrims_silent (hg : Silent c g) (bl : Bool) (nib : Byte) (rs : Bool) :
    nibblePrims c (g bl) nib rs = nibblePrims c bl nib rs := by
  rcases hg with hv | rfl
  · simp [nibblePrims, hv]
  · rfl

theorem assertPrims_silent (hg : Silent c g) (bl : Bool) : assertPrims c (g bl) = assertPrims c bl := by
  rcases hg with hv | rfl
  · simp [assertPrims, hv]
  · rfl

theorem unread_ok : Unread c g h .ok := fun _ hs => ⟨rfl, hs⟩

theorem unread_raise (code : Code) : Unread c g h (.raise · code) := fun _ hs => ⟨rfl, hs⟩

theorem Unread.andThen {f k : State → Run} (hf : Unread c g h f) (hk : Unread c g h k) :
    Unread c g h fun s => (f s).andThen k := by
  intro s hs
  obtain ⟨he, hcfg⟩ := hf s hs
  by_cases hok : (f s).code = .ok
  · simpa [Run.andThen, he, relabelRun, hok] using hk (f s).st hcfg
  · simpa [Run.andThen, he, relabelRun, hok] using hcfg

/-- One bus write: the answer it draws is not in `BL` or `SEQ`. -/
theorem unread_busWrite (w : BusWrite) : Unread c g h (busWrite w) := by
  intro s hs
  have ha : (relabel g h s).answer = s.answer := rfl
  cases hans : s.answer <;> simp only [busWrite, ha, hans] <;> exact ⟨rfl, hs⟩

theorem unread_drive (ps : List Prim) : Unread c g h (drive ps) := by
  induction ps with
  | nil => exact unread_ok
  | cons p ps ih =>
    cases p with
    | write w => exact (unread_busWrite w).andThen ih
    | waitUs n => exact fun s hs => ih (s.emit (.waitUs n)) hs
    | waitMs n => exact fun s hs => ih (s.emit (.waitMs n)) hs

/-- The one place where a request reads `BL`: presenting a nibble (R156). -/
theorem unread_nibbleTx (hg : Silent c g) (nib : Byte) (rs : Bool) : Unread c g h (nibbleTx nib rs) := by
  rintro s rfl
  have hd := unread_drive (g := g) (h := h) (nibblePrims s.cfg s.bl nib rs) (s.setNibble nib rs) rfl
  have hprims := congrArg (drive · (relabel g h (s.setNibble nib rs))) (nibblePrims_silent hg s.bl nib rs)
  exact ⟨hprims.trans hd.1, hd.2⟩

theorem unread_send (hg : Silent c g) (v : Byte) (rs : Bool) : Unread c g h (send v rs) := fun s hs =>
  ((unread_nibbleTx hg (highNibble v) rs).andThen (unread_nibbleTx hg (lowNibble v) rs)) (s.setXv v) hs

theorem unread_sendData (hg : Silent c g) (str : List Byte) : Unread c g h (sendData str) := by
  induction str with
  | nil => exact unread_ok
  | cons v vs ih => exact (unread_send hg v rsData).andThen ih

theorem unread_clearAndWait (hg : Silent c g) : Unread c g h clearAndWait :=
  (unread_send hg clearDisplayByte rsCommand).andThen fun s hs => unread_drive [.waitMs s.cfg.tClearMs] s hs

theorem unread_homeAndWait (hg : Silent c g) (x : BitVec 1) : Unread c g h (homeAndWait x) :=
  (unread_send hg (returnHomeByte x) rsCommand).andThen fun s hs => unread_drive [.waitMs s.cfg.tHomeMs] s hs

theorem unread_dctlSet (hg : Silent c g) (mask : BitVec 3) (on : Bool) : Unread c g h (dctlSet mask on) :=
  fun s hs => unread_send hg _ rsCommand (s.setDctl (dctlWith mask on s.dctl)) hs

theorem unread_emodeSet (hg : Silent c g) (mask : BitVec 2) (on : Bool) : Unread c g h (emodeSet mask on) :=
  fun s hs => unread_send hg _ rsCommand (s.setEmode (emodeWith mask on s.emode)) hs

theorem unread_setCurline (v : Byte) : Unread c g h fun s => .ok (s.setCurline v) := fun _ hs => ⟨rfl, hs⟩

theorem unread_setCursor (hg : Silent c g) (col row : Byte) : Unread c g h (setCursor col row) := by
  intro s hs
  cases ht : cursorTarget s.cfg col row with
  | rowOutOfBounds => simpa [setCursor, ht] using unread_raise .rowOutOfBounds s hs
  | unsupportedGeometry => simpa [setCursor, ht] using unread_raise .unsupportedGeometry s hs
  | overflow => simpa [setCursor, ht] using unread_ok s hs
  | address addr =>
    have hrun := ((unread_send (h := h) hg (setCursorCommand addr) rsCommand).andThen (unread_setCurline row)) s hs
    simpa [setCursor, ht] using hrun

theorem unread_printLongFrom (hg : Silent c g) (i : Nat) (str : List Byte) : Unread c g h (printLongFrom i str) := by
  induction str generalizing i with
  | nil => exact unread_ok
  | cons ch rest ih =>
    have hchars := (unread_send (h := h) hg ch rsData).andThen (ih (i + 1))
    rintro s rfl
    by_cases hseg : startsSegment s.cfg i = true
    · have hrun := ((unread_setCursor hg 0#8 (wrapRow s.cfg i)).andThen hchars) s rfl
      simpa [printLongFrom, hseg] using hrun
    · simpa [printLongFrom, hseg] using (unread_ok.andThen hchars) s rfl

/-! ### The sequencer, which writes `SEQ` but reads it only to refuse INIT -/

theorem unread_initAction (hg : Silent c g) (q : Seq) : Unread c g h (initAction q) := by
  cases q with
  | powerUp => exact unread_ok
  | assertLines =>
    rintro s rfl
    have hd := unread_drive (g := g) (h := h) (assertPrims s.cfg s.bl) s rfl
    exact ⟨(congrArg (drive · (relabel g h s)) (assertPrims_silent hg s.bl)).trans hd.1, hd.2⟩
  | waitPwrA => exact fun s hs => unread_drive [.waitMs s.cfg.tPwrAMs] s hs
  | waitPwrB => exact fun s hs => unread_drive [.waitMs s.cfg.tPwrBMs] s hs
  | nib3a => exact unread_nibbleTx hg 0x30#8 rsCommand
  | wait3a => exact fun s hs => unread_drive [.waitUs s.cfg.tInit3Us] s hs
  | nib3b => exact unread_nibbleTx hg 0x30#8 rsCommand
  | wait3b => exact fun s hs => unread_drive [.waitUs s.cfg.tInit3Us] s hs
  | nib3c => exact unread_nibbleTx hg 0x30#8 rsCommand
  | wait3c => exact fun s hs => unread_drive [.waitUs s.cfg.tInit3Us] s hs
  | nib2 => exact unread_nibbleTx hg 0x20#8 rsCommand
  | functionSet => exact fun s hs => unread_send hg (functionSetCommand s.cfg) rsCommand s hs
  | displayControl => exact fun s hs => unread_send hg _ rsCommand (s.setDctl initDctl) hs
  | clear => exact unread_send hg clearDisplayByte rsCommand
  | clearWait =>
    have hwait : Unread c g h fun s => waitMs s.cfg.tClearMs s := fun s hs => unread_drive [.waitMs s.cfg.tClearMs] s hs
    exact hwait.andThen (unread_setCurline 0#8)
  | entryMode => exact fun s hs => unread_send hg _ rsCommand (s.setEmode initEmode) hs
  | returnHome => exact unread_send hg (returnHomeByte 0#1) rsCommand
  | homeWait => exact fun s hs => unread_drive [.waitMs s.cfg.tHomeMs] s hs
  | ready => exact unread_ok
  | failed => exact unread_ok

theorem unread_runSequencer (hg : Silent c g) (qs : List Seq) : Unread c g id (runSequencer qs) := by
  induction qs with
  | nil => exact fun _ hs => ⟨rfl, hs⟩
  | cons q qs ih =>
    intro s hs
    have hact := unread_initAction (h := id) hg q (s.setSeq q) hs
    have hset : (relabel g id s).setSeq q = relabel g id (s.setSeq q) := rfl
    by_cases hok : (initAction q (s.setSeq q)).code = .ok
    · simpa [runSequencer, hset, hact.1, relabelRun, hok] using ih _ hact.2
    · simp only [runSequencer, hset, hact.1, relabelRun, hok, if_false]
      exact ⟨rfl, hact.2⟩

/-! ### Instructions -/

/-- Ending a request hands out the same response. -/
theorem Unread.reply_relabel {f : State → Run} (hf : Unread c g h f) {s : State} (hs : s.cfg = c) :
    reply (f (relabel g h s)) = relabelOutcome g h (reply (f s)) := by
  rw [(hf s hs).1]
  rfl

/-- An instruction does the same from a relabelled state, where it does not write what is relabelled: only INIT reads
and writes `SEQ`, and only BACKLIGHT writes `BL` (R34, R165). -/
theorem exec_relabel {i : Instr} {s : State} (hg : Silent s.cfg g) (hseq : i ≠ .init ∨ h = id)
    (hbl : (∀ on, i ≠ .backlight on) ∨ g = id) : exec i (relabel g h s) = relabelOutcome g h (exec i s) := by
  cases i with
  | init =>
    obtain rfl : h = id := hseq.resolve_left (not_not_intro rfl)
    have hseq' : (relabel g id s).seq = s.seq := rfl
    by_cases hr : s.seq = .ready
    · rw [exec_init_ready hr, exec_init_ready (hseq'.trans hr)]
      rfl
    · rw [exec_init_notReady hr, exec_init_notReady (s := relabel g id s) hr]
      exact (unread_runSequencer hg initOrder).reply_relabel rfl
  | sendc v => exact (unread_send hg v rsCommand).reply_relabel rfl
  | sendd v => exact (unread_send hg v rsData).reply_relabel rfl
  | backlight on =>
    obtain rfl : g = id := hbl.resolve_left fun hne => hne on rfl
    have hdrive : Unread s.cfg id h fun t => drive (backlightPrims t.cfg on) (t.setBl on) :=
      fun t ht => unread_drive (g := id) (h := h) (backlightPrims t.cfg on) (t.setBl on) ht
    exact hdrive.reply_relabel rfl
  | delayMs n => exact (unread_drive [.waitMs n]).reply_relabel rfl
  | delayUs n => exact (unread_drive [.waitUs n]).reply_relabel rfl
  | display on => exact (unread_dctlSet hg displayMask on).reply_relabel rfl
  | cursor on => exact (unread_dctlSet hg cursorMask on).reply_relabel rfl
  | blink on => exact (unread_dctlSet hg blinkMask on).reply_relabel rfl
  | autoscroll on => exact (unread_emodeSet hg shiftIncrementMask on).reply_relabel rfl
  | leftToRight => exact (unread_emodeSet hg entryLeftMask true).reply_relabel rfl
  | rightToLeft => exact (unread_emodeSet hg entryLeftMask false).reply_relabel rfl
  | setCursor col row =>
    have hreply := (unread_setCursor (h := h) hg col row).reply_relabel rfl
    by_cases ho : cursorTarget s.cfg col row = .overflow
    · simp [exec, execSetCursor, ho, relabelOutcome]
    · simp [exec, execSetCursor, ho, hreply]
  | printChar ch => exact (unread_send hg ch rsData).reply_relabel rfl
  | printStr str => exact (unread_sendData hg str).reply_relabel rfl
  | printLongStr str =>
    exact ((unread_setCursor hg 0#8 0#8).andThen (unread_printLongFrom hg 0 str)).reply_relabel rfl
  | home => exact (unread_homeAndWait hg 0#1).reply_relabel rfl
  | clear => exact ((unread_clearAndWait hg).andThen (unread_setCurline 0#8)).reply_relabel rfl
  | nextLine =>
    have hmove : Unread s.cfg g h fun t =>
        setCursor 0#8 (nextRow t.cfg t.curline) (t.setCurline (nextRow t.cfg t.curline)) :=
      fun t ht => unread_setCursor hg 0#8 _ (t.setCurline (nextRow t.cfg t.curline)) ht
    by_cases hr : s.cfg.rows = 1#8
    · simpa [exec, execNextLine, hr] using (unread_raise .unsupportedOnSingleRow).reply_relabel rfl
    · simpa [exec, execNextLine, hr] using hmove.reply_relabel rfl
  | createChar slot bitmap =>
    by_cases hslot : 7#8 < slot
    · simpa [exec, execCreateChar, hslot] using (unread_raise .slotOutOfBounds).reply_relabel rfl
    · have hrun := (unread_send (h := h) hg (slotCommand slot) rsCommand).andThen (unread_sendData hg bitmap)
      simpa [exec, execCreateChar, hslot] using hrun.reply_relabel rfl
  | clearDisplay => exact (unread_clearAndWait hg).reply_relabel rfl
  | returnHome x => exact (unread_homeAndWait hg x).reply_relabel rfl
  | entryModeSet e sh => exact (unread_send hg (entryModeSetByte e sh) rsCommand).reply_relabel rfl
  | displayControl d c b => exact (unread_send hg (displayControlByte d c b) rsCommand).reply_relabel rfl
  | cursorShift p r x => exact (unread_send hg (cursorShiftByte p r x) rsCommand).reply_relabel rfl
  | functionSet l n f x => exact (unread_send hg (functionSetByte l n f x) rsCommand).reply_relabel rfl
  | setCGRAMAddr a => exact (unread_send hg (setCGRAMAddrByte a) rsCommand).reply_relabel rfl
  | setDDRAMAddr a => exact (unread_send hg (setDDRAMAddrByte a) rsCommand).reply_relabel rfl
  | writeData d => exact (unread_send hg d rsData).reply_relabel rfl
  | reserved00 => exact (unread_send hg 0x00#8 rsCommand).reply_relabel rfl
  | handshakeNibble3 =>
    exact ((unread_nibbleTx hg 0x30#8 rsCommand).andThen
      fun t ht => unread_drive [.waitUs t.cfg.tInit3Us] t ht).reply_relabel rfl
  | handshakeNibble2 => exact (unread_nibbleTx hg 0x20#8 rsCommand).reply_relabel rfl

end

/-- Settles O21: BACKLIGHT overwrites `BL` before it does anything else; every other instruction does the same from the
state with another `BL` (`exec_relabel`). -/
theorem discreteHidesBacklight : Obligations.DiscreteHidesBacklight := by
  intro i s t b hv ht
  by_cases hbl : ∃ on, i = .backlight on
  · obtain ⟨on, rfl⟩ := hbl
    exact ⟨t, ht, rfl, rfl⟩
  · have hsame := exec_relabel (g := fun _ => b) (.inl hv) (.inr rfl) (.inl (not_exists.mp hbl)) (i := i)
    rw [ht] at hsame
    exact ⟨relabel (fun _ => b) id t, hsame, rfl, rfl⟩

end Sys2Proof.Proofs

/-! PROOFS. The statements of 20_memory.md: a send is the nibble transactions of the high and then of the low nibble of
the value (R75), and the two nibbles lose nothing of it. -/

namespace Sys2Proof.Proofs

open Sys2Proof.Machine

/-! ## The nibble split (R75) -/

theorem highNibble_low_bits (v : Byte) : highNibble v &&& 0x0F#8 = 0#8 := by
  simp [highNibble, BitVec.and_assoc]

theorem lowNibble_low_bits (v : Byte) : lowNibble v &&& 0x0F#8 = 0#8 := by
  simp [lowNibble, BitVec.and_assoc]

/-- Shifted down again, the low nibble is the value's bits 3:0. -/
theorem lowNibble_shifted_down (v : Byte) : lowNibble v >>> 4 = v &&& 0x0F#8 := by
  ext i hi
  interval_cases i <;> simp [lowNibble]

theorem highNibble_or_lowNibble (v : Byte) : highNibble v ||| lowNibble v >>> 4 = v :=
  calc highNibble v ||| lowNibble v >>> 4
    _ = (v &&& 0xF0#8) ||| (v &&& 0x0F#8) := by rw [lowNibble_shifted_down, highNibble]
    _ = v &&& (0xF0#8 ||| 0x0F#8) := BitVec.and_or_distrib_left.symm
    _ = v := BitVec.and_allOnes

/-- Settles O13: the order is the definition of `send`; the nibbles' masks are disjoint and together cover the byte. -/
theorem nibbleSplit : Obligations.NibbleSplit := fun v =>
  ⟨fun _ _ => rfl, highNibble_low_bits v, lowNibble_low_bits v, highNibble_or_lowNibble v⟩

end Sys2Proof.Proofs

/-! PROOFS. The statements of 30_encoding.md: decoder and encoder agree in both directions (R101 to R105, R109, R112),
a request word is refused exactly by R104, a transfer is named by its top bit (R109), the assembler's lines (R115, R116)
and the expander byte (R107). -/

namespace Sys2Proof.Proofs

open Sys2Proof.Machine Sys2Proof.Safety

/-! ## The fields of a request word (R101) -/

@[simp] theorem opField_requestWord (op b c : Byte) : opField (requestWord op b c) = op := by
  ext i hi
  interval_cases i <;> simp [opField, requestWord]

@[simp] theorem aField_requestWord (op b c : Byte) : aField (requestWord op b c) = 0#8 := by
  ext i hi
  interval_cases i <;> simp [aField, requestWord]

@[simp] theorem bField_requestWord (op b c : Byte) : bField (requestWord op b c) = b := by
  ext i hi
  interval_cases i <;> simp [bField, requestWord]

@[simp] theorem cField_requestWord (op b c : Byte) : cField (requestWord op b c) = c := by
  ext i hi
  interval_cases i <;> simp [cField, requestWord]

@[simp] theorem opField_countWord (op : Byte) (n : Half) : opField (countWord op n) = op := opField_requestWord ..

@[simp] theorem aField_countWord (op : Byte) (n : Half) : aField (countWord op n) = 0#8 := aField_requestWord ..

@[simp] theorem nField_countWord (op : Byte) (n : Half) : nField (countWord op n) = n := by
  ext i hi
  interval_cases i <;> simp [nField, countWord, requestWord]

/-- With `A = 0` a request word is built of its other three fields. -/
theorem requestWord_fields {w : Word} (ha : aField w = 0#8) : requestWord (opField w) (bField w) (cField w) = w := by
  have hall : requestWord (opField w) (bField w) (cField w) ||| (aField w).setWidth 32 <<< 16 = w := by
    ext i hi
    interval_cases i <;> simp [requestWord, opField, aField, bField, cField]
  simpa [ha] using hall

theorem countWord_fields {w : Word} (ha : aField w = 0#8) : countWord (opField w) (nField w) = w := by
  have hb : (nField w).extractLsb' 8 8 = bField w := by
    simp [nField, bField, BitVec.extractLsb'_extractLsb'_of_le]
  have hc : (nField w).extractLsb' 0 8 = cField w := by
    simp [nField, cField, BitVec.extractLsb'_extractLsb'_of_le]
  rw [countWord, hb, hc, requestWord_fields ha]

/-! The same fields as numbers, as R104 is stated on them. -/

theorem opField_toNat (w : Word) : (opField w).toNat = w.toNat / 2 ^ 24 := by
  rw [opField, BitVec.extractLsb'_toNat, Nat.shiftRight_eq_div_pow]
  exact Nat.mod_eq_of_lt (by omega)

theorem aField_toNat (w : Word) : (aField w).toNat = w.toNat / 2 ^ 16 % 256 := by
  simp [aField, Nat.shiftRight_eq_div_pow]

theorem bField_toNat (w : Word) : (bField w).toNat = w.toNat / 2 ^ 8 % 256 := by
  simp [bField, Nat.shiftRight_eq_div_pow]

theorem cField_toNat (w : Word) : (cField w).toNat = w.toNat % 256 := by
  simp [cField]

theorem nField_toNat (w : Word) : (nField w).toNat = 256 * (bField w).toNat + (cField w).toNat := by
  simp only [nField, bField, cField, BitVec.extractLsb'_toNat, Nat.shiftRight_eq_div_pow]
  omega

/-! ## The operand forms: what each accepts, and the one spelling it accepts (R103 to R105) -/

theorem flagField_legal (on : Bool) : flagField on = 0#8 ∨ flagField on = 1#8 := by
  cases on
  · exact .inl rfl
  · exact .inr rfl

@[simp] theorem flagField_beq_one (on : Bool) : (flagField on == 1#8) = on := by cases on <;> rfl

theorem flagField_of_legal {c : Byte} (h : c = 0#8 ∨ c = 1#8) : flagField (c == 1#8) = c := by
  rcases h with rfl | rfl <;> rfl

/-- `i` is well formed, and `p` is its encoding. -/
def Spells (i : Instr) (p : PortWord) : Prop := i.wf = true ∧ encode i = p

section
variable {w : Word} {payload : List Byte} {i j : Instr}

theorem checked_eq_ok {zeros flag length : Bool} :
    checked w zeros flag length i = .ok j ↔
      aField w = 0#8 ∧ zeros = true ∧ flag = true ∧ length = true ∧ i = j := by
  unfold checked
  split_ifs <;> simp_all

theorem decodeBare_eq_ok :
    decodeBare w payload i = .ok j ↔ aField w = 0#8 ∧ bField w = 0#8 ∧ cField w = 0#8 ∧ payload = [] ∧ i = j := by
  simp [decodeBare, checked_eq_ok, and_assoc]

theorem decodeByte_eq_ok {f : Byte → Instr} :
    decodeByte w payload f = .ok j ↔ aField w = 0#8 ∧ bField w = 0#8 ∧ payload = [] ∧ f (cField w) = j := by
  simp [decodeByte, checked_eq_ok]

theorem decodeFlag_eq_ok {f : Bool → Instr} :
    decodeFlag w payload f = .ok j ↔
      aField w = 0#8 ∧ bField w = 0#8 ∧ (cField w = 0#8 ∨ cField w = 1#8) ∧ payload = [] ∧ f (cField w == 1#8) = j := by
  simp [decodeFlag, checked_eq_ok]

theorem decodeCount_eq_ok {f : Half → Instr} :
    decodeCount w payload f = .ok j ↔ aField w = 0#8 ∧ payload = [] ∧ f (nField w) = j := by
  simp [decodeCount, checked_eq_ok]

theorem decodePair_eq_ok {f : Byte → Byte → Instr} :
    decodePair w payload f = .ok j ↔ aField w = 0#8 ∧ payload = [] ∧ f (bField w) (cField w) = j := by
  simp [decodePair, checked_eq_ok]

theorem decodeString_eq_ok {f : List Byte → Instr} :
    decodeString w payload f = .ok j ↔ aField w = 0#8 ∧ payload.length = (nField w).toNat ∧ f payload = j := by
  simp [decodeString, checked_eq_ok]

theorem decodeGlyph_eq_ok {f : Byte → List Byte → Instr} :
    decodeGlyph w payload f = .ok j ↔
      aField w = 0#8 ∧ bField w = 0#8 ∧ payload.length = 8 ∧ f (cField w) payload = j := by
  simp [decodeGlyph, checked_eq_ok]

variable (op : Byte) (hop : (opField w).toNat = op.toNat)
include hop

theorem decodeBare_spells (hi : Spells i (plainRequest op 0#8 0#8)) (h : decodeBare w payload i = .ok j) :
    Spells j (.request w payload) := by
  obtain rfl := BitVec.eq_of_toNat_eq hop
  obtain ⟨ha, hb, hc, rfl, rfl⟩ := decodeBare_eq_ok.mp h
  have hw := requestWord_fields ha
  rw [hb, hc] at hw
  rwa [plainRequest, hw] at hi

theorem decodeByte_spells {f : Byte → Instr} (hf : ∀ v, Spells (f v) (plainRequest op 0#8 v))
    (h : decodeByte w payload f = .ok j) : Spells j (.request w payload) := by
  obtain rfl := BitVec.eq_of_toNat_eq hop
  obtain ⟨ha, hb, rfl, rfl⟩ := decodeByte_eq_ok.mp h
  have hspell := hf (cField w)
  rwa [← hb, plainRequest, requestWord_fields ha] at hspell

theorem decodeFlag_spells {f : Bool → Instr} (hf : ∀ on, Spells (f on) (plainRequest op 0#8 (flagField on)))
    (h : decodeFlag w payload f = .ok j) : Spells j (.request w payload) := by
  obtain rfl := BitVec.eq_of_toNat_eq hop
  obtain ⟨ha, hb, hc, rfl, rfl⟩ := decodeFlag_eq_ok.mp h
  have hspell := hf (cField w == 1#8)
  rwa [flagField_of_legal hc, ← hb, plainRequest, requestWord_fields ha] at hspell

theorem decodeCount_spells {f : Half → Instr} (hf : ∀ n, Spells (f n) (.request (countWord op n) []))
    (h : decodeCount w payload f = .ok j) : Spells j (.request w payload) := by
  obtain rfl := BitVec.eq_of_toNat_eq hop
  obtain ⟨ha, rfl, rfl⟩ := decodeCount_eq_ok.mp h
  have hspell := hf (nField w)
  rwa [countWord_fields ha] at hspell

theorem decodePair_spells {f : Byte → Byte → Instr} (hf : ∀ b c, Spells (f b c) (plainRequest op b c))
    (h : decodePair w payload f = .ok j) : Spells j (.request w payload) := by
  obtain rfl := BitVec.eq_of_toNat_eq hop
  obtain ⟨ha, rfl, rfl⟩ := decodePair_eq_ok.mp h
  have hspell := hf (bField w) (cField w)
  rwa [plainRequest, requestWord_fields ha] at hspell

theorem decodeString_spells {f : List Byte → Instr}
    (hf : ∀ str : List Byte, str.length < 65536 → Spells (f str) (stringRequest op str))
    (h : decodeString w payload f = .ok j) : Spells j (.request w payload) := by
  obtain rfl := BitVec.eq_of_toNat_eq hop
  obtain ⟨ha, hlen, rfl⟩ := decodeString_eq_ok.mp h
  have hspell := hf payload (hlen ▸ (nField w).isLt)
  rwa [stringRequest, hlen, BitVec.ofNat_toNat, BitVec.setWidth_eq, countWord_fields ha] at hspell

theorem decodeGlyph_spells {f : Byte → List Byte → Instr}
    (hf : ∀ (slot : Byte) (bitmap : List Byte), bitmap.length = 8 →
      Spells (f slot bitmap) (.request (requestWord op 0#8 slot) bitmap))
    (h : decodeGlyph w payload f = .ok j) : Spells j (.request w payload) := by
  obtain rfl := BitVec.eq_of_toNat_eq hop
  obtain ⟨ha, hb, hlen, rfl⟩ := decodeGlyph_eq_ok.mp h
  have hspell := hf (cField w) payload hlen
  rwa [← hb, requestWord_fields ha] at hspell

end

/-- A request that decodes is the encoding of what it decodes to: the row of R102 its `OP` names
has one operand form. -/
theorem decodeRequest_spells {w : Word} {payload : List Byte} {i : Instr} (h : decodeRequest w payload = .ok i) :
    Spells i (.request w payload) := by
  unfold decodeRequest at h
  split at h
  next hop => exact decodeBare_spells 0x01#8 hop ⟨rfl, rfl⟩ h
  next hop => exact decodeByte_spells 0x02#8 hop (fun _ => ⟨rfl, rfl⟩) h
  next hop => exact decodeByte_spells 0x03#8 hop (fun _ => ⟨rfl, rfl⟩) h
  next hop => exact decodeFlag_spells 0x04#8 hop (fun _ => ⟨rfl, rfl⟩) h
  next hop => exact decodeCount_spells 0x05#8 hop (fun _ => ⟨rfl, rfl⟩) h
  next hop => exact decodeCount_spells 0x06#8 hop (fun _ => ⟨rfl, rfl⟩) h
  next hop => exact decodeFlag_spells 0x10#8 hop (fun _ => ⟨rfl, rfl⟩) h
  next hop => exact decodeFlag_spells 0x11#8 hop (fun _ => ⟨rfl, rfl⟩) h
  next hop => exact decodeFlag_spells 0x12#8 hop (fun _ => ⟨rfl, rfl⟩) h
  next hop => exact decodeFlag_spells 0x13#8 hop (fun _ => ⟨rfl, rfl⟩) h
  next hop => exact decodeBare_spells 0x14#8 hop ⟨rfl, rfl⟩ h
  next hop => exact decodeBare_spells 0x15#8 hop ⟨rfl, rfl⟩ h
  next hop => exact decodePair_spells 0x20#8 hop (fun _ _ => ⟨rfl, rfl⟩) h
  next hop => exact decodeByte_spells 0x21#8 hop (fun _ => ⟨rfl, rfl⟩) h
  next hop => exact decodeString_spells (f := .printStr) 0x22#8 hop (fun _ hlen => ⟨decide_eq_true hlen, rfl⟩) h
  next hop => exact decodeString_spells (f := .printLongStr) 0x23#8 hop (fun _ hlen => ⟨decide_eq_true hlen, rfl⟩) h
  next hop => exact decodeBare_spells 0x24#8 hop ⟨rfl, rfl⟩ h
  next hop => exact decodeBare_spells 0x25#8 hop ⟨rfl, rfl⟩ h
  next hop => exact decodeBare_spells 0x26#8 hop ⟨rfl, rfl⟩ h
  next hop => exact decodeGlyph_spells (f := .createChar) 0x30#8 hop (fun _ _ hlen => ⟨beq_iff_eq.mpr hlen, rfl⟩) h
  next => cases h

/-! ## Transfers and handshake nibbles (R109, R112) -/

/-- Where a number has no bit above bit `k`, that bit says whether the number reaches `2 ^ k`. -/
theorem getElem_top_iff {n : Nat} {v : BitVec n} {k : Nat} (hk : k < n) (hv : v.toNat < 2 ^ (k + 1)) :
    v[k] = true ↔ 2 ^ k ≤ v.toNat := by
  rw [BitVec.getElem_eq_testBit_toNat]
  constructor
  · exact Nat.ge_two_pow_of_testBit
  · exact fun h => Nat.testBit_of_two_pow_le_and_two_pow_add_one_gt h hv

@[simp] theorem getElem_flagBit (on : Bool) (k i : Nat) (h : i < 8) : (flagBit on k)[i] = (decide (i = k) && on) := by
  by_cases hk : i < k
  · simp [flagBit, hk, Nat.ne_of_lt hk]
  · have hzero : i = k ↔ i - k = 0 := by omega
    simp [flagBit, hk, hzero, BitVec.getLsbD_ofBool]

/-- A flag above the low `n` bits does not show in them. -/
theorem extractLsb'_flagBit (on : Bool) {n k : Nat} (hn : n ≤ k) (hk : k < 8) :
    (flagBit on k).extractLsb' 0 n = 0#n := by
  ext i hi
  have hne : 0 + i ≠ k := by omega
  rw [BitVec.getElem_extractLsb', BitVec.getLsbD_eq_getElem (by omega), getElem_flagBit]
  simp only [hne, decide_false, Bool.false_and, BitVec.getElem_zero]

theorem decode_commandTransfer (v : Byte) : decode (commandTransfer v) = .ok (decodeCommand v) := by
  simp [decode, commandTransfer, decodeTransfer, BitVec.extractLsb'_setWidth_of_le]

theorem decode_dataTransfer (v : Byte) : decode (dataTransfer v) = .ok (.writeData v) := by
  simp [decode, dataTransfer, decodeTransfer, BitVec.extractLsb'_or, BitVec.extractLsb'_setWidth_of_le]

/-- Settles O2, operand form by operand form: the fields of the word that is built are read back as the operands (the
request encoding is the spec's decision D1). -/
theorem decodeOfEncode : Obligations.DecodeOfEncode := by
  intro i hwf
  cases i with
  | init | leftToRight | rightToLeft | home | clear | nextLine =>
    simp [encode, plainRequest, decode, decodeRequest, decodeBare_eq_ok]
  | sendc _ | sendd _ | printChar _ =>
    simp [encode, plainRequest, decode, decodeRequest, decodeByte_eq_ok]
  | backlight on | display on | cursor on | blink on | autoscroll on =>
    simp [encode, plainRequest, decode, decodeRequest, decodeFlag_eq_ok, flagField_legal]
  | delayMs _ | delayUs _ => simp [encode, decode, decodeRequest, decodeCount_eq_ok]
  | setCursor _ _ => simp [encode, plainRequest, decode, decodeRequest, decodePair_eq_ok]
  | printStr str | printLongStr str =>
    have hlen : str.length < 65536 := of_decide_eq_true hwf
    simp [encode, stringRequest, decode, decodeRequest, decodeString_eq_ok, Nat.mod_eq_of_lt hlen]
  | createChar _ bitmap =>
    have hlen : bitmap.length = 8 := beq_iff_eq.mp hwf
    simp [encode, decode, decodeRequest, decodeGlyph_eq_ok, hlen]
  | clearDisplay | reserved00 | handshakeNibble3 | handshakeNibble2 => rfl
  | entryModeSet _ _ | displayControl _ _ _ =>
    simp [encode, decode_commandTransfer, decodeCommand, entryModeSetByte, displayControlByte]
  | returnHome _ | cursorShift _ _ _ | functionSet _ _ _ _ | setCGRAMAddr _ | setDDRAMAddr _ =>
    simp [encode, decode_commandTransfer, decodeCommand, returnHomeByte, cursorShiftByte, functionSetByte,
      setCGRAMAddrByte, setDDRAMAddrByte, BitVec.extractLsb'_or, BitVec.extractLsb'_setWidth_of_le,
      extractLsb'_flagBit]
  | writeData d => exact decode_dataTransfer d

theorem decodeCommand_spells (v : Byte) : Spells (decodeCommand v) (commandTransfer v) := by
  unfold decodeCommand
  split_ifs with h7 h6 h5 h4 h3 h2 h1 h0
  all_goals
    refine ⟨rfl, congrArg commandTransfer ?_⟩
    ext i hi
    interval_cases i <;> simp [*, setDDRAMAddrByte, setCGRAMAddrByte, functionSetByte, cursorShiftByte,
      displayControlByte, entryModeSetByte, returnHomeByte, clearDisplayByte]

theorem decodeTransfer_spells (cmd : BitVec 9) : Spells (decodeTransfer cmd) (.transfer cmd) := by
  unfold decodeTransfer
  split_ifs with h8
  · refine ⟨rfl, congrArg PortWord.transfer ?_⟩
    ext i hi
    interval_cases i <;> simp [h8]
  · have hcmd : commandTransfer (cmd.extractLsb' 0 8) = .transfer cmd := by
      refine congrArg PortWord.transfer ?_
      ext i hi
      interval_cases i <;> simp [h8]
    exact hcmd ▸ decodeCommand_spells _

theorem decodeNibble_spells {nib : BitVec 5} {i : Instr} (h : decodeNibble nib = .ok i) : Spells i (.nibble nib) := by
  unfold decodeNibble at h
  split_ifs at h with h3 h2
  · cases h
    exact ⟨rfl, h3 ▸ rfl⟩
  · cases h
    exact ⟨rfl, h2 ▸ rfl⟩

/-- Settles O3, format by format: what each decoder accepts is spelled in one way (the request encoding is the spec's
decision D1). -/
theorem encodeOfDecode : Obligations.EncodeOfDecode := by
  intro p i h
  cases p with
  | request w payload => exact decodeRequest_spells h
  | transfer cmd =>
    cases h
    exact decodeTransfer_spells cmd
  | nibble nib => exact decodeNibble_spells h

/-! ## Refused requests (R104) -/

/-- The clauses of R104 read on the fields. -/
theorem legalRequest_iff (w : Word) (payload : List Byte) :
    LegalRequest w payload ↔ aField w = 0#8 ∧
      (((opField w).toNat ∈ [0x01, 0x14, 0x15, 0x24, 0x25, 0x26] ∧ bField w = 0#8 ∧ cField w = 0#8 ∧ payload = []) ∨
       ((opField w).toNat ∈ [0x02, 0x03, 0x21] ∧ bField w = 0#8 ∧ payload = []) ∨
       ((opField w).toNat ∈ [0x04, 0x10, 0x11, 0x12, 0x13] ∧ bField w = 0#8 ∧ (cField w = 0#8 ∨ cField w = 1#8) ∧
         payload = []) ∨
       ((opField w).toNat ∈ [0x05, 0x06, 0x20] ∧ payload = []) ∨
       ((opField w).toNat ∈ [0x22, 0x23] ∧ payload.length = (nField w).toNat) ∨
       ((opField w).toNat = 0x30 ∧ bField w = 0#8 ∧ payload.length = 8)) := by
  have hzero : ∀ v : Byte, v = 0#8 ↔ v.toNat = 0 := fun _ => BitVec.toNat_eq
  have hone : ∀ v : Byte, v = 1#8 ↔ v.toNat = 1 := fun _ => BitVec.toNat_eq
  simp only [LegalRequest, hzero, hone, Nat.le_one_iff_eq_zero_or_eq_one, nField_toNat, opField_toNat, aField_toNat,
    bField_toNat, cField_toNat, List.length_eq_zero_iff]

/-- The decoder accepts exactly the legal requests: row by row of R102, its operand form accepts what the row's line of
R104 does. -/
theorem decodeRequest_accepts_iff (w : Word) (payload : List Byte) :
    (∃ i, decodeRequest w payload = .ok i) ↔ LegalRequest w payload := by
  rw [legalRequest_iff]
  unfold decodeRequest
  split
  case h_21 => simp_all -- no row of R102 has this `OP`
  all_goals
    rename_i hop
    simp [hop, decodeBare_eq_ok, decodeByte_eq_ok, decodeFlag_eq_ok, decodeCount_eq_ok, decodePair_eq_ok,
      decodeString_eq_ok, decodeGlyph_eq_ok]

/-- The one reason an instruction itself is refused for is INIT's (R200, R377). -/
theorem exec_refused {i : Instr} {s : State} {why : Refusal} (h : exec i s = .refused why) : why = .initAfterReady := by
  cases i with
  | init =>
    by_cases hr : s.seq = .ready
    · rw [exec_init_ready hr] at h
      cases h
      rfl
    · rw [exec_init_notReady hr] at h
      cases h
  | setCursor col row =>
    by_cases ho : cursorTarget s.cfg col row = .overflow <;> simp [exec, execSetCursor, ho, reply] at h
  | nextLine => by_cases hr : s.cfg.rows = 1#8 <;> simp [exec, execNextLine, hr, reply] at h
  | createChar slot bitmap => by_cases hs : 7#8 < slot <;> simp [exec, execCreateChar, hs, reply] at h
  | _ => cases h

/-- Settles O4: the decoder accepts exactly the legal requests, and a decoded instruction is never refused as
illegal. -/
theorem illegalRequestsRefused : Obligations.IllegalRequestsRefused := by
  intro s w payload ms hc hm
  rw [← decodeRequest_accepts_iff]
  have ha := arrive_issue hc hm
  cases hd : decodeRequest w payload with
  | error why => simp [step, ha, arrivalOf, decode, hd]
  | ok i =>
    have hstep : step s = exec i (s.setMoves ms) :=
      step_of_run (ha.trans (arrivalOf_decoded (p := .request w payload) hd _))
    have hnot : ¬ ∃ why, step s = .refused (.illegalRequest why) := by
      rintro ⟨why, h⟩
      cases exec_refused (hstep ▸ h)
    simp [hnot]

/-! ## The name of a transfer (R109) -/

/-- The bit a command is named by, as the range its byte lies in. -/
theorem decodeCommand_eq_ranges (v : Byte) :
    decodeCommand v =
      if 128 ≤ v.toNat then .setDDRAMAddr (v.extractLsb' 0 7)
      else if 64 ≤ v.toNat then .setCGRAMAddr (v.extractLsb' 0 6)
      else if 32 ≤ v.toNat then .functionSet v[4] v[3] v[2] (v.extractLsb' 0 2)
      else if 16 ≤ v.toNat then .cursorShift v[3] v[2] (v.extractLsb' 0 2)
      else if 8 ≤ v.toNat then .displayControl v[2] v[1] v[0]
      else if 4 ≤ v.toNat then .entryModeSet v[1] v[0]
      else if 2 ≤ v.toNat then .returnHome (v.extractLsb' 0 1)
      else if 1 ≤ v.toNat then .clearDisplay
      else .reserved00 := by
  have top : ∀ k (hk : k < 8), v.toNat < 2 ^ (k + 1) → (v[k] = true) = (2 ^ k ≤ v.toNat) :=
    fun k hk hv => propext (getElem_top_iff hk hv)
  refine ite_congr (top 7 (by omega) v.isLt) (fun _ => rfl) fun h7 => ?_
  refine ite_congr (top 6 (by omega) (by omega)) (fun _ => rfl) fun h6 => ?_
  refine ite_congr (top 5 (by omega) (by omega)) (fun _ => rfl) fun h5 => ?_
  refine ite_congr (top 4 (by omega) (by omega)) (fun _ => rfl) fun h4 => ?_
  refine ite_congr (top 3 (by omega) (by omega)) (fun _ => rfl) fun h3 => ?_
  refine ite_congr (top 2 (by omega) (by omega)) (fun _ => rfl) fun h2 => ?_
  refine ite_congr (top 1 (by omega) (by omega)) (fun _ => rfl) fun h1 => ?_
  exact ite_congr (top 0 (by omega) (by omega)) (fun _ => rfl) fun _ => rfl

/-- Settles O5: RS is bit 8; below it, each range of the command byte has its own name (`decodeCommand_eq_ranges`). -/
theorem commandNamedByTopBit : Obligations.CommandNamedByTopBit := by
  intro cmd
  refine ⟨decodeTransfer cmd, rfl, ?_⟩
  have h8 : cmd[8] = true ↔ 256 ≤ cmd.toNat := getElem_top_iff (by omega) cmd.isLt
  by_cases hrs : cmd[8] = true
  · have hcmd := h8.mp hrs
    simp [decodeTransfer, hrs, hcmd]
    omega
  · have hcmd : cmd.toNat < 256 := Nat.not_le.mp (mt h8.mpr hrs)
    have hv : (cmd.extractLsb' 0 8).toNat = cmd.toNat := by simp [Nat.mod_eq_of_lt hcmd]
    have hi := decodeCommand_eq_ranges (cmd.extractLsb' 0 8)
    rw [hv] at hi
    rw [decodeTransfer, if_neg hrs]
    generalize decodeCommand (cmd.extractLsb' 0 8) = i at hi ⊢
    split_ifs at hi
    all_goals
      subst hi
      simp
      omega

/-! ## Words, lines and bytes written out -/

/-- Settles O1, by running the decoder on each word (the request opcodes are the spec's decision D1). -/
theorem specWordsDecode : Obligations.SpecWordsDecode := by
  unfold Obligations.SpecWordsDecode
  decide

/-- Settles O6, by running the assembler on each line. -/
theorem assemblerLines : Obligations.AssemblerLines := by
  unfold Obligations.AssemblerLines
  decide +kernel

/-- Settles O12: `exb` leaves out RW, which is 0 (R106); the rest is its definition. -/
theorem expanderByte : Obligations.ExpanderByte := by
  intro bl nib rs e
  simp [exb, flagBit]

end Sys2Proof.Proofs

/-! PROOFS. The statements of 40_protocol_engine.md: the sends (R158, R159), a failed bus write (R152, R166), BACKLIGHT
(R161, R164), the delays (R162, R163), the sequencer that gates nothing (R165) and what a send makes the controller
latch (R157). -/

namespace Sys2Proof.Proofs

open Sys2Proof.Machine Sys2Proof.Safety Sys2Proof.Laws

/-! ## A request that is one bus program (R370, R375) -/

section
variable {ps : List Prim} {s : State} {r : Run} {k : Nat}

/-- With its write `k` the first to fail, a request's events end with that write and its response is the error. -/
theorem reply_fails (h : Runs ps s r) (hk : k < attempts (progEvents ps)) (hf : FailsAfter k s) :
    ∃ xv xrs nib, reply r = .next (finished (withWork s xv xrs nib) (cutAt k (progEvents ps)) .busWriteFailure) := by
  obtain ⟨xv, xrs, nib, rfl⟩ := h.fails hk hf
  exact ⟨xv, xrs, nib, rfl⟩

/-- The same for a request that also writes `CURLINE`. -/
theorem reply_fails_line {line : Byte} {lineAt : Nat → Byte} (h : RunsLine ps s line lineAt r)
    (hk : k < attempts (progEvents ps)) (hf : FailsAfter k s) :
    ∃ xv xrs nib, reply r =
      .next (finished (withWork (s.setCurline (lineAt k)) xv xrs nib) (cutAt k (progEvents ps)) .busWriteFailure) := by
  obtain ⟨xv, xrs, nib, rfl⟩ := h.fails hk hf
  exact ⟨xv, xrs, nib, rfl⟩

/-- A program that does not present a nibble leaves the working registers as they are: whole, it is `drove`. -/
theorem drive_completes (hok : AllOk (attempts (progEvents ps)) s) : drive ps s = .ok (drove s (progEvents ps)) := by
  rcases drive_cases ps s with ⟨-, hd⟩ | ⟨k, hk, ⟨-, hfail⟩, -⟩
  · exact hd
  · cases (hok k hk).symm.trans hfail

end

/-! ## Requests of one transfer (R152, R158, R159) -/

section
variable {i : Instr} {s : State} {v : Byte} {rs : Bool} {k : Nat}

/-- A transfer with every write answered `Ok` and nothing after it. -/
theorem reply_send_completes (v : Byte) (rs : Bool) (hok : AllOk (2 * nibbleWrites s.cfg) s) :
    ∃ xv xrs nib, reply (send v rs s) =
      .next (finished (withWork s xv xrs nib) (sendEvents s.cfg s.bl v rs) .ok) := by
  obtain ⟨xv, xrs, nib, hsend⟩ := send_completes v rs s hok
  exact ⟨xv, xrs, nib, congrArg reply hsend⟩

/-- An error ends the request: what would follow does not run (R373). -/
theorem andThen_busWriteFailure (t : State) (f : State → Run) :
    (Run.raise t .busWriteFailure).andThen f = .raise t .busWriteFailure := rfl

theorem stopsAs_of_send (hi : exec i s = reply (send v rs s)) (hk : k < 2 * nibbleWrites s.cfg)
    (hf : FailsAfter k s) : StopsAs i s rs v k := by
  obtain ⟨xv, xrs, nib, hsend⟩ := send_fails v rs s k hk hf
  exact ⟨xv, xrs, nib, hi.trans (congrArg reply hsend)⟩

/-- A wait after the transfer is skipped when the transfer fails. -/
theorem stopsAs_of_send_andThen {f : State → Run} (hi : exec i s = reply ((send v rs s).andThen f))
    (hk : k < 2 * nibbleWrites s.cfg) (hf : FailsAfter k s) : StopsAs i s rs v k := by
  obtain ⟨xv, xrs, nib, hsend⟩ := send_fails v rs s k hk hf
  rw [hsend, andThen_busWriteFailure] at hi
  exact ⟨xv, xrs, nib, hi⟩

/-- A nibble transaction whose write `k` fails. -/
theorem nibbleTx_fails (nib : Byte) (rs : Bool) (hk : k < nibbleWrites s.cfg) (hf : FailsAfter k s) :
    ∃ xv xrs nib', nibbleTx nib rs s =
      .raise (withWork (drove s (cutAt k (nibbleEvents s.cfg s.bl nib rs))) xv xrs nib') .busWriteFailure := by
  have hstop := (nibbleTx_runs nib rs s).fails (k := k) (by rwa [nibblePrims_events, attempts_nibbleEvents]) hf
  rwa [nibblePrims_events] at hstop

end

/-- Settles O14, from what a send comes to (`send_completes`). -/
theorem sendcCompletes : Obligations.SendcCompletes := fun _ v hok => reply_send_completes v rsCommand hok

/-- Settles O15, as O14 with RS = 1. -/
theorem senddCompletes : Obligations.SenddCompletes := fun _ v hok => reply_send_completes v rsData hok

/-! ### The command bytes as numbers (R332 to R338) -/

/-- A field below the fixed bits of a command byte is added to them. -/
theorem or_setWidth_eq_ofNat_add {n : Nat} (base : Byte) (a : BitVec n)
    (hdisjoint : base &&& a.setWidth 8 = 0#8) :
    base ||| a.setWidth 8 = BitVec.ofNat 8 (base.toNat + a.toNat) := by
  rw [← BitVec.add_eq_or_of_and_eq_zero _ _ hdisjoint]
  exact BitVec.eq_of_toNat_eq (by simp)

theorem returnHomeByte_eq (x : BitVec 1) : returnHomeByte x = BitVec.ofNat 8 (2 + x.toNat) :=
  or_setWidth_eq_ofNat_add 0x02#8 x (by revert x; decide)

theorem entryModeSetByte_eq (e h : Bool) :
    entryModeSetByte e h = BitVec.ofNat 8 (4 + 2 * e.toNat + h.toNat) := by
  revert e h
  decide

theorem displayControlByte_eq (d c b : Bool) :
    displayControlByte d c b = BitVec.ofNat 8 (8 + 4 * d.toNat + 2 * c.toNat + b.toNat) := by
  revert d c b
  decide

theorem cursorShiftByte_eq (p r : Bool) (x : BitVec 2) :
    cursorShiftByte p r x = BitVec.ofNat 8 (16 + 8 * p.toNat + 4 * r.toNat + x.toNat) := by
  revert p r x
  decide

theorem functionSetByte_eq (l n f : Bool) (x : BitVec 2) :
    functionSetByte l n f x = BitVec.ofNat 8 (32 + 16 * l.toNat + 8 * n.toNat + 4 * f.toNat + x.toNat) := by
  revert l n f x
  decide

theorem setCGRAMAddrByte_eq (a : BitVec 6) : setCGRAMAddrByte a = BitVec.ofNat 8 (64 + a.toNat) := by
  refine or_setWidth_eq_ofNat_add 0x40#8 a ?_
  ext i hi
  interval_cases i <;> simp

theorem setDDRAMAddrByte_eq (a : BitVec 7) : setDDRAMAddrByte a = BitVec.ofNat 8 (128 + a.toNat) := by
  refine or_setWidth_eq_ofNat_add 0x80#8 a ?_
  ext i hi
  interval_cases i <;> simp

/-- Settles O16: every row is one transfer of its byte, with at most a wait behind it, or one nibble transaction. -/
theorem failedSendStops : Obligations.FailedSendStops := by
  intro s k hf
  constructor
  · intro hk
    refine ⟨fun v => ⟨?_, ?_, ?_⟩, ?_, fun x => ?_, fun e h => ?_, fun d c b => ?_, fun p r x => ?_,
      fun l n f x => ?_, fun a => ?_, fun a => ?_, fun d => ?_, ?_⟩
    · exact stopsAs_of_send rfl hk hf
    · exact stopsAs_of_send rfl hk hf
    · exact stopsAs_of_send rfl hk hf
    · exact stopsAs_of_send_andThen (f := fun t => waitMs t.cfg.tClearMs t) rfl hk hf
    · rw [← returnHomeByte_eq]
      exact stopsAs_of_send_andThen (f := fun t => waitMs t.cfg.tHomeMs t) rfl hk hf
    · exact stopsAs_of_send (entryModeSetByte_eq e h ▸ rfl) hk hf
    · exact stopsAs_of_send (displayControlByte_eq d c b ▸ rfl) hk hf
    · exact stopsAs_of_send (cursorShiftByte_eq p r x ▸ rfl) hk hf
    · exact stopsAs_of_send (functionSetByte_eq l n f x ▸ rfl) hk hf
    · exact stopsAs_of_send (setCGRAMAddrByte_eq a ▸ rfl) hk hf
    · exact stopsAs_of_send (setDDRAMAddrByte_eq a ▸ rfl) hk hf
    · exact stopsAs_of_send rfl hk hf
    · exact stopsAs_of_send rfl hk hf
  · intro hk p hp
    rcases List.mem_pair.mp hp with rfl | rfl
    · obtain ⟨xv, xrs, nib, hn⟩ := nibbleTx_fails 0x30#8 rsCommand hk hf
      refine ⟨xv, xrs, nib, ?_⟩
      show reply ((nibbleTx 0x30#8 rsCommand s).andThen fun t => waitUs t.cfg.tInit3Us t) = _
      rw [hn, andThen_busWriteFailure]
      rfl
    · obtain ⟨xv, xrs, nib, hn⟩ := nibbleTx_fails 0x20#8 rsCommand hk hf
      exact ⟨xv, xrs, nib, congrArg reply hn⟩

/-! ## BACKLIGHT and the delays (R161 to R164) -/

theorem backlightByte_eq (on : Bool) : backlightByte on = if on then 0x08#8 else 0x00#8 := by
  cases on <;> rfl

/-- BACKLIGHT puts one byte on the bus of EXPANDER (R161). -/
theorem backlightPrims_expander {c : Config} (hv : c.variant = .expander) (on : Bool) :
    backlightPrims c on = [memWrite c (if on then 0x08#8 else 0x00#8)] := by
  simp [backlightPrims, hv, backlightByte_eq]

/-- BACKLIGHT leaves the bus of DISCRETE alone (R161, decision D18). -/
theorem backlightPrims_discrete {c : Config} (hv : c.variant = .discrete) (on : Bool) :
    backlightPrims c on = [] := by
  simp [backlightPrims, hv]

/-- BACKLIGHT writes its register before it drives the bus (R161). -/
theorem exec_backlight (on : Bool) (s : State) :
    exec (.backlight on) s = reply (drive (backlightPrims s.cfg on) (s.setBl on)) := rfl

/-- Settles O17: `BL` is written first, then the one byte of EXPANDER is answered `Ok` or `Fail`. -/
theorem backlightSets : Obligations.BacklightSets := by
  refine ⟨decodeOfEncode (.backlight false) rfl, decodeOfEncode (.backlight true) rfl, fun s on => ⟨?_, ?_, ?_⟩⟩
  · intro hv hok
    rw [exec_backlight, backlightPrims_expander hv, drive_completes (ps := [memWrite ..]) (s := s.setBl on) hok]
    rfl
  · intro hv hf
    have ho : oracle (s.setBl on) 0 = .fail := hf.2
    rw [exec_backlight, backlightPrims_expander hv, memWrite, drive, busWrite_eq, ho]
    rfl
  · intro hv
    rw [exec_backlight, backlightPrims_discrete hv, drive_completes (ps := []) nofun]
    rfl

/-- A request word with a count is its opcode above its count (R101). -/
theorem countWord_eq_or (op : Byte) (n : Half) : countWord op n = op.setWidth 32 <<< 24 ||| n.setWidth 32 := by
  ext i hi
  interval_cases i <;> simp [countWord, requestWord]

/-- Settles O18: the wait is a bus program without a bus write, so nothing can fail. -/
theorem delayMsWaits : Obligations.DelayMsWaits := by
  intro s n
  constructor
  · have hd := decodeOfEncode (.delayMs n) rfl
    rwa [encode, countWord_eq_or] at hd
  · exact congrArg reply (drive_completes (ps := [.waitMs n]) (s := s) nofun)

/-- Settles O19, as O18. -/
theorem delayUsWaits : Obligations.DelayUsWaits := by
  intro s n
  constructor
  · have hd := decodeOfEncode (.delayUs n) rfl
    rwa [encode, countWord_eq_or] at hd
  · exact congrArg reply (drive_completes (ps := [.waitUs n]) (s := s) nofun)

/-- A program that stops at its write `k` has put only bytes with its own backlight value on the bus, the failed one
too. -/
theorem cutAt_carriesBacklight {c : Config} {bl : Bool} {ps : List Prim} {k : Nat} (fits : progFits c bl ps)
    (lt : k < attempts (progEvents ps)) : ∀ e ∈ cutAt k (progEvents ps), carriesBacklight bl e = true := by
  obtain ⟨qs, w, hcut, hw, hqs⟩ := cutAt_eq ps k lt
  have hfailed : carriesBacklight bl (.failed w) = carriesBacklight bl (.write w) := by cases w <;> rfl
  intro e he
  rw [hcut] at he
  rcases List.mem_append.mp he with he | he
  · obtain ⟨q, hq, rfl⟩ := List.mem_map.mp he
    exact (fits q (hqs q hq)).2
  · rw [List.mem_singleton.mp he, hfailed]
    exact (fits _ hw).2

/-- The registers a request writes are not the trace. -/
theorem regsFrom_trace {i : Instr} {s r : State} (regs : RegsFrom i s r) : r.trace = s.trace := by
  obtain ⟨_, _, _, _, _, rfl⟩ := regs.same
  rfl

/-- Settles O20, by the two ways an instruction ends (`exec_ends`): its program carries the `BL` it leaves. -/
theorem backlightInEveryByte : Obligations.BacklightInEveryByte := by
  intro i s t h
  cases exec_ends h with
  | whole r ps code xv xrs nib regs fits answered noBus row =>
    rw [newEvents_finished (regsFrom_trace regs)]
    intro e he
    obtain ⟨p, hp, rfl⟩ := List.mem_map.mp he
    exact (fits p hp).2
  | cut r ps k code xv xrs nib regs fits lt fails bus row =>
    rw [newEvents_finished (regsFrom_trace regs)]
    exact cutAt_carriesBacklight fits lt

/-! ## The sequencer gates nothing (R165) -/

/-- Settles O22: no instruction but INIT reads or writes `SEQ` (`exec_relabel`). -/
theorem noGatingBySequencer : Obligations.NoGatingBySequencer := by
  intro i s q hi
  have hsame : exec i { s with seq := q } = relabelOutcome id (fun _ => q) (exec i s) :=
    exec_relabel (g := id) (h := fun _ => q) (.inr rfl) (.inl hi) (.inr rfl)
  rw [hsame]
  cases exec i s <;> rfl

/-! ## Composed requests (R166) -/

theorem createCharPrims_events (c : Config) (bl : Bool) (slot : Byte) (bitmap : List Byte) :
    progEvents (sendPrims c bl (slotCommand slot) false ++ dataPrims c bl bitmap) =
      sendEvents c bl (0x40#8 ||| slot <<< 3) false ++ dataEvents c bl bitmap := by
  rw [progEvents_append, sendPrims_events, dataPrims_events, slotCommand]

theorem printLongStrPrims_events (c : Config) (bl : Bool) (str : List Byte) :
    progEvents (sendPrims c bl 0x80#8 false ++ longPrims c bl 0 str) =
      sendEvents c bl 0x80#8 false ++ longEvents c bl 0 str := by
  rw [progEvents_append, sendPrims_events, longPrims_events]

/-- CREATE_CHAR on a slot of at most 7: the address command, then the bitmap (R320). -/
theorem createChar_runs (slot : Byte) (bitmap : List Byte) (s : State) :
    Runs (sendPrims s.cfg s.bl (slotCommand slot) false ++ dataPrims s.cfg s.bl bitmap) s
      ((send (slotCommand slot) rsCommand s).andThen (sendData bitmap)) :=
  (send_runs (slotCommand slot) rsCommand s).andThen fun xv xrs nib =>
    sendData_runs bitmap (withWork (drove s _) xv xrs nib)

/-- Settles O39: each request is one bus program of its transfers, which stops at its first failed write. -/
theorem composedRequestsStop : Obligations.ComposedRequestsStop := by
  intro s k hf
  refine ⟨fun str hk => ?_, fun str _ hs hk => ?_, fun slot bitmap hslot hk => ?_⟩
  · rw [← dataPrims_events] at hk ⊢
    exact reply_fails (sendData_runs str s) hk hf
  · rw [← printLongStrPrims_events] at hk ⊢
    exact reply_fails_line (printLongStr_runs str s hs) hk hf
  · rw [← createCharPrims_events] at hk ⊢
    have hexec : exec (.createChar slot bitmap) s =
        reply ((send (slotCommand slot) rsCommand s).andThen (sendData bitmap)) := if_neg (BitVec.not_lt.mpr hslot)
    rw [hexec]
    exact reply_fails (createChar_runs slot bitmap s) hk hf

/-! ## What a send makes the controller latch (R157) -/

/-- With Enable low before it, a transfer latches its two nibbles, high first, and leaves Enable low. -/
theorem send_latches (c : Config) (bl : Bool) (v : Byte) (rs : Bool) (m : BusImage)
    (h : enableLevel c.variant m = .known false) :
    latches m (sendEvents c bl v rs) = [.nibble rs (v.extractLsb' 4 4), .nibble rs (v.extractLsb' 0 4)] ∧
      enableLevel c.variant ((sendEvents c bl v rs).foldl imageAfter m) = .known false := by
  obtain ⟨hhigh, hbetween⟩ := nibble_latches c bl (v &&& 0xF0#8) rs m h
  obtain ⟨hlow, hafter⟩ := nibble_latches c bl (v <<< 4) rs _ hbetween
  rw [highNibble_field] at hhigh
  rw [lowNibble_field] at hlow
  rw [sendEvents, latches_append, hhigh, hlow, List.foldl_append]
  exact ⟨rfl, hafter⟩

/-- Settles O55: the new events of a completed send are its transfer's, which latch its two nibbles. -/
theorem sendLatchesValue : Obligations.SendLatchesValue := by
  intro s v hlow hok
  constructor
  · obtain ⟨xv, xrs, nib, hx⟩ := sendcCompletes s v hok
    exact ⟨_, hx, by rw [newEvents_finished rfl]; exact (send_latches s.cfg s.bl v false s.image hlow).1⟩
  · obtain ⟨xv, xrs, nib, hx⟩ := senddCompletes s v hok
    exact ⟨_, hx, by rw [newEvents_finished rfl]; exact (send_latches s.cfg s.bl v true s.image hlow).1⟩

end Sys2Proof.Proofs

/-! PROOFS. The statements of 41_init_sequencer.md: INIT is refused in READY (R200), completes with the whole handshake
(R211, R213), stops at its first failed bus write (R212), and what its events count (R214) and make the controller
latch (R157, R204, R205). -/

namespace Sys2Proof.Proofs

open Sys2Proof.Machine Sys2Proof.Safety Sys2Proof.Laws

/-- Settles O26: the refusal is the first check of INIT. -/
theorem initRefusedWhenReady : Obligations.InitRefusedWhenReady := fun _ => exec_init_ready

/-! ## A sequence that completes, and one that fails (R211, R212) -/

section
variable {qs : List Seq} {s : State} {k : Nat}

/-- With every write answered `Ok`, a list of sequencer states is run whole and ends in READY. -/
theorem runSequencer_completes (hok : AllOk (attempts (progEvents (seqsPrims s.cfg s.bl qs))) s) :
    ∃ xv xrs nib, runSequencer qs s =
      .ok (withWork (drove ((seqsAfter qs s).setSeq .ready) (progEvents (seqsPrims s.cfg s.bl qs))) xv xrs nib) := by
  obtain ⟨xv, xrs, nib, ⟨-, hrun⟩ | ⟨k, hk, ⟨-, hfail⟩, -⟩⟩ := runSequencer_cases qs s
  · exact ⟨xv, xrs, nib, hrun⟩
  · cases (hok k hk).symm.trans hfail

/-- Only one bus write is the first to fail. -/
theorem failsAfter_unique {j : Nat} (hk : FailsAfter k s) (hj : FailsAfter j s) : k = j := by
  rcases Nat.lt_trichotomy k j with hlt | heq | hlt
  · cases (hj.1 k hlt).symm.trans hk.2
  · exact heq
  · cases (hk.1 j hlt).symm.trans hj.2

/-- With its write `k` the first to fail, a list of sequencer states stops there and ends in FAILED. -/
theorem runSequencer_fails (hk : k < attempts (progEvents (seqsPrims s.cfg s.bl qs))) (hf : FailsAfter k s) :
    ∃ xv xrs nib, runSequencer qs s =
      .raise (withWork (drove ((seqsAt qs k s).setSeq .failed)
        (cutAt k (progEvents (seqsPrims s.cfg s.bl qs)))) xv xrs nib) .initializationFailed := by
  obtain ⟨xv, xrs, nib, ⟨hok, -⟩ | ⟨j, -, hj, hrun⟩⟩ := runSequencer_cases qs s
  · cases (hok k hk).symm.trans hf.2
  · exact ⟨xv, xrs, nib, failsAfter_unique hf hj ▸ hrun⟩

/-- INIT is not refused where its precondition holds (R200). -/
theorem exec_init_startable (hs : s.seq = .powerUp ∨ s.seq = .failed) :
    exec .init s = reply (runSequencer initOrder s) :=
  exec_init_notReady (by rcases hs with h | h <;> rw [h] <;> decide)

end

/-- Settles O24: the program of the sequencer's states is the event list of R213 (`initOrder_events`). -/
theorem initCompletes : Obligations.InitCompletes := by
  intro s hs hok
  rw [← attempts_initEvents s.cfg s.bl, ← initOrder_events] at hok
  obtain ⟨xv, xrs, nib, hrun⟩ := runSequencer_completes hok
  rw [initOrder_events] at hrun
  exact ⟨xv, xrs, nib, (exec_init_startable hs).trans (congrArg reply hrun)⟩

/-- What a completed INIT has added to the observation and made of the bus image. -/
theorem init_observation {s : State} (hs : s.seq = .powerUp ∨ s.seq = .failed) (hok : AllOk (initWrites s.cfg) s) :
    ∃ t, exec .init s = .next t ∧ t.cfg = s.cfg ∧ newEvents s t = initEvents s.cfg s.bl ∧
      t.image = (initEvents s.cfg s.bl).foldl imageAfter s.image := by
  obtain ⟨xv, xrs, nib, hx⟩ := initCompletes s hs hok
  refine ⟨_, hx, rfl, ?_, rfl⟩
  exact newEvents_finished (r := (seqsAfter initOrder s).setSeq .ready) rfl ..

/-! ## The registers a failed INIT leaves (R207 to R209, R212)

INIT's states fall into three parts: up to FunctionSet no register is written, then `DCTL`, then `CURLINE` and `EMODE`.
The wait after ClearDisplay stands in the last part: it has no bus write of its own, so a failure never falls into it. -/

/-- INIT's states before the DisplayControl step. -/
def headOrder : List Seq :=
  [.assertLines, .waitPwrA, .waitPwrB, .nib3a, .wait3a, .nib3b, .wait3b, .nib3c, .wait3c, .nib2, .functionSet]

/-- INIT's states from the DisplayControl step up to ClearDisplay. -/
def middleOrder : List Seq := [.displayControl, .clear]

/-- INIT's states from the wait after ClearDisplay on. -/
def tailOrder : List Seq := [.clearWait, .entryMode, .returnHome, .homeWait]

theorem initOrder_eq : initOrder = headOrder ++ (middleOrder ++ tailOrder) := rfl

theorem attempts_assertEvents (c : Config) (bl : Bool) : attempts (assertEvents c bl) = assertWrites c := by
  cases hv : c.variant <;> simp [assertEvents, assertWrites, hv, attempts, byteEvent, lineEvent]

/-- The bus writes of one sequencer state (R201). -/
def seqWrites (c : Config) : Seq → Nat
  | .assertLines => assertWrites c
  | .nib3a | .nib3b | .nib3c | .nib2 => nibbleWrites c
  | .functionSet | .displayControl | .clear | .entryMode | .returnHome => 2 * nibbleWrites c
  | .powerUp | .waitPwrA | .waitPwrB | .wait3a | .wait3b | .wait3c | .clearWait | .homeWait | .ready | .failed => 0

theorem attempts_seqPrims (c : Config) (bl : Bool) (q : Seq) :
    attempts (progEvents (seqPrims c bl q)) = seqWrites c q := by
  cases q with
  | assertLines => exact (congrArg attempts (assertPrims_events c bl)).trans (attempts_assertEvents c bl)
  | nib3a | nib3b | nib3c | nib2 =>
    exact (congrArg attempts (nibblePrims_events c bl _ _)).trans (attempts_nibbleEvents c bl _ _)
  | functionSet | displayControl | clear | entryMode | returnHome => exact attempts_sendPrims c bl _ _
  | _ => rfl

theorem attempts_seqsPrims (c : Config) (bl : Bool) (qs : List Seq) :
    attempts (progEvents (seqsPrims c bl qs)) = (qs.map (seqWrites c)).sum := by
  induction qs with
  | nil => rfl
  | cons q qs ih =>
    rw [seqsPrims, List.flatMap_cons, progEvents_append, attempts_append, attempts_seqPrims]
    exact congrArg (seqWrites c q + ·) ih

theorem attempts_headOrder (c : Config) (bl : Bool) :
    attempts (progEvents (seqsPrims c bl headOrder)) = initHeadWrites c := by
  rw [attempts_seqsPrims]
  simp only [headOrder, List.map_cons, List.map_nil, List.sum_cons, List.sum_nil, seqWrites, initHeadWrites]
  omega

theorem attempts_middleOrder (c : Config) (bl : Bool) :
    attempts (progEvents (seqsPrims c bl middleOrder)) = 4 * nibbleWrites c := by
  rw [attempts_seqsPrims]
  simp only [middleOrder, List.map_cons, List.map_nil, List.sum_cons, List.sum_nil, seqWrites]
  omega

/-- A failure in the second of two lists of states finds the registers the first has left. -/
theorem seqsAt_append (qs rs : List Seq) (k : Nat) (s : State) :
    seqsAt (qs ++ rs) k s =
      if k < attempts (progEvents (seqsPrims s.cfg s.bl qs)) then seqsAt qs k s
      else seqsAt rs (k - attempts (progEvents (seqsPrims s.cfg s.bl qs))) (seqsAfter qs s) := by
  induction qs generalizing k s with
  | nil => rfl
  | cons q qs ih =>
    have hsum : attempts (progEvents (seqsPrims s.cfg s.bl (q :: qs))) =
        attempts (progEvents (seqPrims s.cfg s.bl q)) + attempts (progEvents (seqsPrims s.cfg s.bl qs)) := by
      simp [seqsPrims]
    rw [hsum, List.cons_append, seqsAt, seqsAt, ih, seqAfter_cfg, seqAfter_bl, seqsAfter,
      Nat.sub_sub]
    by_cases hq : k < attempts (progEvents (seqPrims s.cfg s.bl q))
    · simp only [if_pos hq, if_pos (Nat.lt_add_right _ hq)]
    · simp only [if_neg hq, Nat.sub_lt_iff_lt_add' (Nat.not_lt.mp hq)]

/-- No register is written in the sequencer state `q`. -/
def Quiet (q : Seq) : Prop := ∀ t, seqBefore q t = t ∧ seqAfter q t = t

theorem seqsAt_quiet {qs : List Seq} (h : ∀ q ∈ qs, Quiet q) (k : Nat) (s : State) : seqsAt qs k s = s := by
  induction qs generalizing k with
  | nil => rfl
  | cons q qs ih =>
    obtain ⟨hbefore, hafter⟩ := h q (List.mem_cons_self ..) s
    rw [seqsAt, hbefore, hafter, ih fun p hp => h p (List.mem_cons_of_mem _ hp), ite_self]

/-- Before the DisplayControl step no register is written (R212). -/
theorem seqsAt_headOrder (k : Nat) (s : State) : seqsAt headOrder k s = s :=
  seqsAt_quiet (by simp [headOrder, Quiet, seqBefore, seqAfter]) k s

/-- From the DisplayControl step on `DCTL` is written (R207). -/
theorem seqsAt_middleOrder (k : Nat) (s : State) : seqsAt middleOrder k s = s.setDctl 0b100#3 := by
  have hclear : ∀ q ∈ [Seq.clear], Quiet q := by simp [Quiet, seqBefore, seqAfter]
  rw [middleOrder, seqsAt, seqsAt_quiet hclear]
  exact ite_self _

/-- From the EntryModeSet step on `CURLINE` and `EMODE` are written too (R208, R209): the wait before it cannot fail. -/
theorem seqsAt_tailOrder (k : Nat) (s : State) :
    seqsAt tailOrder k s = (s.setCurline 0#8).setEmode 0b10#2 := by
  have hhome : ∀ q ∈ [Seq.returnHome, .homeWait], Quiet q := by simp [Quiet, seqBefore, seqAfter]
  rw [tailOrder, seqsAt, attempts_seqPrims, seqWrites, if_neg (Nat.not_lt_zero k), seqsAt, seqsAt_quiet hhome]
  exact ite_self _

/-- The registers when bus write `k` of INIT fails. -/
theorem seqsAt_initOrder (k : Nat) (s : State) :
    seqsAt initOrder k s =
      { s with
        dctl := if initHeadWrites s.cfg ≤ k then 0b100#3 else s.dctl
        emode := if initMiddleWrites s.cfg ≤ k then 0b10#2 else s.emode
        curline := if initMiddleWrites s.cfg ≤ k then 0#8 else s.curline } := by
  have hmiddle : initMiddleWrites s.cfg = initHeadWrites s.cfg + 4 * nibbleWrites s.cfg := rfl
  have hafter : seqsAfter headOrder s = s := rfl
  rw [initOrder_eq, seqsAt_append, seqsAt_append, attempts_headOrder, hafter, attempts_middleOrder, seqsAt_headOrder,
    seqsAt_middleOrder, seqsAt_tailOrder]
  by_cases hhead : k < initHeadWrites s.cfg
  · rw [if_pos hhead, if_neg (by omega), if_neg (by omega), if_neg (by omega)]
  · by_cases hmid : k < initMiddleWrites s.cfg
    · rw [if_neg hhead, if_pos (by omega), if_pos (by omega), if_neg (by omega), if_neg (by omega)]
      rfl
    · rw [if_neg hhead, if_neg (by omega), if_pos (by omega), if_pos (by omega), if_pos (by omega)]
      rfl

/-- Settles O25: the sequence stops at write `k` (`runSequencer_fails`), with the registers of `seqsAt_initOrder`. -/
theorem initFails : Obligations.InitFails := by
  intro s k hs hk hf
  rw [← attempts_initEvents s.cfg s.bl, ← initOrder_events] at hk
  obtain ⟨xv, xrs, nib, hrun⟩ := runSequencer_fails hk hf
  rw [initOrder_events, seqsAt_initOrder] at hrun
  exact ⟨xv, xrs, nib, (exec_init_startable hs).trans (congrArg reply hrun)⟩

/-! ## Counts of events (R214) -/

/-- A program that runs whole has one successful write for each answer drawn. -/
theorem countP_isWrite_progEvents (ps : List Prim) : (progEvents ps).countP isWrite = attempts (progEvents ps) := by
  induction ps with
  | nil => rfl
  | cons p ps ih =>
    have hcons : progEvents (p :: ps) = primEvent p :: progEvents ps := rfl
    rw [hcons, List.countP_cons, ih]
    cases p <;> rfl

/-- Where nothing has failed, every event is a write or a wait. -/
theorem length_progEvents (ps : List Prim) :
    (progEvents ps).length = (progEvents ps).countP isWrite + (progEvents ps).countP isWait := by
  induction ps with
  | nil => rfl
  | cons p ps ih =>
    have hcons : progEvents (p :: ps) = primEvent p :: progEvents ps := rfl
    rw [hcons, List.length_cons, List.countP_cons, List.countP_cons, ih]
    cases p <;> simp only [primEvent, isWrite, isWait, Bool.false_eq_true, if_true, if_false] <;> omega

theorem countP_isWait_nibbleEvents (c : Config) (bl : Bool) (nib : Byte) (rs : Bool) :
    (nibbleEvents c bl nib rs).countP isWait = 2 := by
  cases hv : c.variant <;> simp only [nibbleEvents, hv] <;> rfl

theorem countP_isWait_sendEvents (c : Config) (bl : Bool) (v : Byte) (rs : Bool) :
    (sendEvents c bl v rs).countP isWait = 4 := by
  rw [sendEvents, List.countP_append, countP_isWait_nibbleEvents, countP_isWait_nibbleEvents]

theorem countP_isWait_assertEvents (c : Config) (bl : Bool) : (assertEvents c bl).countP isWait = 0 := by
  cases hv : c.variant <;> simp only [assertEvents, hv] <;> rfl

theorem countP_isWait_initEvents (c : Config) (bl : Bool) : (initEvents c bl).countP isWait = 35 := by
  simp only [initEvents, initHead, initMiddle, initTail, List.countP_append, countP_isWait_assertEvents,
    countP_isWait_nibbleEvents, countP_isWait_sendEvents]
  rfl

theorem countP_isWrite_initEvents (c : Config) (bl : Bool) : (initEvents c bl).countP isWrite = initWrites c := by
  rw [← initOrder_events, countP_isWrite_progEvents, initOrder_events, attempts_initEvents]

theorem length_initEvents (c : Config) (bl : Bool) : (initEvents c bl).length = initWrites c + 35 := by
  rw [← countP_isWrite_initEvents c bl, ← countP_isWait_initEvents c bl, ← initOrder_events, ← length_progEvents]

theorem initWrites_expander {c : Config} (hv : c.variant = .expander) : initWrites c = 43 := by
  simp [initWrites, initMiddleWrites, initHeadWrites, assertWrites, nibbleWrites, hv]

theorem initWrites_discrete {c : Config} (hv : c.variant = .discrete) : initWrites c = 104 := by
  simp [initWrites, initMiddleWrites, initHeadWrites, assertWrites, nibbleWrites, hv]

/-- Settles O27: the new events are those of R213, one write for each answer drawn, and 35 waits on both variants. -/
theorem initEventCounts : Obligations.InitEventCounts := by
  intro s hs hok
  obtain ⟨t, hx, -, hnew, -⟩ := init_observation hs hok
  refine ⟨t, hx, ?_⟩
  rw [hnew, countP_isWrite_initEvents, countP_isWait_initEvents, length_initEvents]
  constructor
  · intro hv
    rw [initWrites_expander hv]
    exact ⟨rfl, rfl, rfl⟩
  · intro hv
    rw [initWrites_discrete hv]
    exact ⟨rfl, rfl, rfl⟩

/-! ## What INIT makes the controller latch (R157, R204, R205, R420) -/

/-- From the image `m` the events `es` latch `ls` and leave Enable low. -/
def LatchesLow (v : Variant) (m : BusImage) (es : List Event) (ls : List Latch) : Prop :=
  latches m es = ls ∧ enableLevel v (es.foldl imageAfter m) = .known false

/-- Enable left low by the first events is what the next ones start from. -/
theorem LatchesLow.append {v : Variant} {m : BusImage} {es fs : List Event} {ls ks : List Latch}
    (hes : LatchesLow v m es ls) (hfs : ∀ m', enableLevel v m' = .known false → LatchesLow v m' fs ks) :
    LatchesLow v m (es ++ fs) (ls ++ ks) := by
  obtain ⟨hls, hlow⟩ := hes
  obtain ⟨hks, hlow'⟩ := hfs _ hlow
  exact ⟨by rw [latches_append, hls, hks], by rwa [List.foldl_append]⟩

/-- Where Enable is not known to be high, driving it low makes no certain latch: none at all from a low level (R81), and
possibly one from an unknown level (R420). -/
theorem edgeLatch_of_not_high {level : Drive Bool} (h : level ≠ .known true) (l : Latch) :
    (edgeLatch level true l).toList = if level = .unknown then [.uncertain] else [] := by
  cases level with
  | unknown => rfl
  | known high =>
    cases high with
    | false => rfl
    | true => exact absurd rfl h

/-- A wait moves no line. -/
theorem wait_latchesLow {v : Variant} {e : Event} (he : isWait e = true) (m : BusImage)
    (h : enableLevel v m = .known false) : LatchesLow v m [e] [] := by
  cases e with
  | waitUs n => exact ⟨rfl, h⟩
  | waitMs n => exact ⟨rfl, h⟩
  | write w => cases he
  | failed w => cases he

section
variable (c : Config) (bl : Bool) (m : BusImage)

/-- The line assertion latches nothing where Enable was low (R81), may latch something where its level was unknown
(R420), and leaves Enable low. -/
theorem assert_latchesLow (h : enableLevel c.variant m ≠ .known true) :
    LatchesLow c.variant m (assertEvents c bl)
      (if enableLevel c.variant m = .unknown then [.uncertain] else []) := by
  have hbyte : (if bl then 0x08#8 else 0x00#8)[2] = false := by cases bl <;> rfl
  cases hv : c.variant with
  | expander =>
    rw [hv] at h
    simp only [assertEvents, hv, byteEvent]
    generalize (if bl then 0x08#8 else 0x00#8) = b at hbyte
    constructor
    · simp [latches, latchOf, writeLatch, hbyte, edgeLatch_of_not_high h]
    · simp [imageAfter, BusImage.put, enableLevel, hbyte]
  | discrete =>
    rw [hv] at h
    simp only [assertEvents, hv, List.map, lineEvent]
    constructor
    · exact (List.append_nil _).trans (edgeLatch_of_not_high h _)
    · rfl

/-- One handshake nibble 0x3 with its wait (R204). -/
theorem handshake3_latchesLow (h : enableLevel c.variant m = .known false) :
    LatchesLow c.variant m (nibbleEvents c bl 0x30#8 false ++ [.waitUs c.tInit3Us]) [.nibble false 0x3#4] :=
  LatchesLow.append (nibble_latches c bl 0x30#8 false m h) (wait_latchesLow rfl)

/-- A command latches its two nibbles with RS = 0 (R157). -/
theorem command_latchesLow (v : Byte) (h : enableLevel c.variant m = .known false) :
    LatchesLow c.variant m (sendEvents c bl v false)
      [.nibble false (v.extractLsb' 4 4), .nibble false (v.extractLsb' 0 4)] :=
  send_latches c bl v false m h

/-- INIT up to FunctionSet (R204 to R206). -/
theorem initHead_latchesLow (h : enableLevel c.variant m ≠ .known true) :
    LatchesLow c.variant m (initHead c bl)
      ((if enableLevel c.variant m = .unknown then [Latch.uncertain] else []) ++
        ([0x3, 0x3, 0x3, 0x2, 0x2, (if 1 < c.rows.toNat then 0x8 else 0x0)] : List (BitVec 4)).map
          fun n => Latch.nibble false n) := by
  have hwaits : ∀ m', enableLevel c.variant m' = .known false →
      LatchesLow c.variant m' [.waitMs c.tPwrAMs, .waitMs c.tPwrBMs] [] := fun m' h' =>
    (wait_latchesLow rfl m' h').append (wait_latchesLow rfl)
  have h3 := handshake3_latchesLow c bl
  have hall := (((((((assert_latchesLow c bl m h).append hwaits).append h3).append h3).append h3).append
    fun m' => nibble_latches c bl 0x20#8 false m').append
    fun m' => command_latchesLow c bl m' (if 1 < c.rows.toNat then 0x28#8 else 0x20#8))
  convert hall using 1
  · rfl
  · split_ifs <;> rfl

/-- INIT from DisplayControl to the wait after ClearDisplay (R207, R208). -/
theorem initMiddle_latchesLow (h : enableLevel c.variant m = .known false) :
    LatchesLow c.variant m (initMiddle c bl)
      (([0x0, 0xC, 0x0, 0x1] : List (BitVec 4)).map fun n => Latch.nibble false n) :=
  ((command_latchesLow c bl m 0x0C#8 h).append fun m' => command_latchesLow c bl m' 0x01#8).append
    (wait_latchesLow rfl)

/-- INIT from EntryModeSet to its end (R209, R210). -/
theorem initTail_latchesLow (h : enableLevel c.variant m = .known false) :
    LatchesLow c.variant m (initTail c bl)
      (([0x0, 0x6, 0x0, 0x2] : List (BitVec 4)).map fun n => Latch.nibble false n) :=
  ((command_latchesLow c bl m 0x06#8 h).append fun m' => command_latchesLow c bl m' 0x02#8).append
    (wait_latchesLow rfl)

end

/-- Settles O57, part by part: after the line assertion Enable is low, and every nibble transaction keeps it so. -/
theorem initLatchesHandshake : Obligations.InitLatchesHandshake := by
  intro s hs hlevel hok
  obtain ⟨t, hx, hcfg, hnew, himage⟩ := init_observation hs hok
  have hall : LatchesLow s.cfg.variant s.image (initEvents s.cfg s.bl) _ :=
    ((initHead_latchesLow s.cfg s.bl s.image hlevel).append (initMiddle_latchesLow s.cfg s.bl)).append
      (initTail_latchesLow s.cfg s.bl)
  obtain ⟨hlatches, hlow⟩ := hall
  refine ⟨t, hx, ?_, ?_⟩
  · rw [hcfg, himage]
    exact hlow
  · rw [hnew, hlatches]
    simp only [List.append_assoc]
    rfl

end Sys2Proof.Proofs

/-! PROOFS. The statements of 42_display_state.md: DISPLAY, CURSOR and BLINK change one bit of `DCTL` (R251 to R253),
AUTOSCROLL, LEFT_TO_RIGHT and RIGHT_TO_LEFT one bit of `EMODE` (R254 to R256), the register is written before the send
and keeps its new value where the send fails (R250), and nothing else of the two registers and `BL` changes. -/

namespace Sys2Proof.Proofs

open Sys2Proof.Machine Sys2Proof.Safety Sys2Proof.Laws

/-! ## A shadow register is written, then its command is sent (R250) -/

section
variable {s : State} {k : Nat}

/-- A transfer whose write `k` is the first to fail. -/
theorem reply_send_fails (v : Byte) (rs : Bool) (hk : k < 2 * nibbleWrites s.cfg) (hf : FailsAfter k s) :
    ∃ xv xrs nib, reply (send v rs s) =
      .next (finished (withWork s xv xrs nib) (cutAt k (sendEvents s.cfg s.bl v rs)) .busWriteFailure) := by
  obtain ⟨xv, xrs, nib, hsend⟩ := send_fails v rs s k hk hf
  exact ⟨xv, xrs, nib, congrArg reply hsend⟩

theorem reply_dctlSet_completes (mask : BitVec 3) (on : Bool) (hok : AllOk (2 * nibbleWrites s.cfg) s) :
    ∃ xv xrs nib, reply (dctlSet mask on s) =
      .next (finished (withWork { s with dctl := dctlWith mask on s.dctl } xv xrs nib)
        (sendEvents s.cfg s.bl (displayControlCommand (dctlWith mask on s.dctl)) false) .ok) :=
  reply_send_completes (s := s.setDctl (dctlWith mask on s.dctl)) _ rsCommand hok

theorem reply_dctlSet_fails (mask : BitVec 3) (on : Bool) (hk : k < 2 * nibbleWrites s.cfg) (hf : FailsAfter k s) :
    ∃ xv xrs nib, reply (dctlSet mask on s) =
      .next (finished (withWork { s with dctl := dctlWith mask on s.dctl } xv xrs nib)
        (cutAt k (sendEvents s.cfg s.bl (displayControlCommand (dctlWith mask on s.dctl)) false)) .busWriteFailure) :=
  reply_send_fails (s := s.setDctl (dctlWith mask on s.dctl)) _ rsCommand hk hf

theorem reply_emodeSet_completes (mask : BitVec 2) (on : Bool) (hok : AllOk (2 * nibbleWrites s.cfg) s) :
    ∃ xv xrs nib, reply (emodeSet mask on s) =
      .next (finished (withWork { s with emode := emodeWith mask on s.emode } xv xrs nib)
        (sendEvents s.cfg s.bl (entryModeCommand (emodeWith mask on s.emode)) false) .ok) :=
  reply_send_completes (s := s.setEmode (emodeWith mask on s.emode)) _ rsCommand hok

theorem reply_emodeSet_fails (mask : BitVec 2) (on : Bool) (hk : k < 2 * nibbleWrites s.cfg) (hf : FailsAfter k s) :
    ∃ xv xrs nib, reply (emodeSet mask on s) =
      .next (finished (withWork { s with emode := emodeWith mask on s.emode } xv xrs nib)
        (cutAt k (sendEvents s.cfg s.bl (entryModeCommand (emodeWith mask on s.emode)) false)) .busWriteFailure) :=
  reply_send_fails (s := s.setEmode (emodeWith mask on s.emode)) _ rsCommand hk hf

end

/-- Settles O29: each request is `dctlSet` with the mask of its own bit, at the flag positions of G2. -/
theorem displayControlRequestsComplete : Obligations.DisplayControlRequestsComplete := by
  intro s on hok
  rw [List.forall_mem_cons, List.forall_mem_cons, List.forall_mem_singleton]
  exact ⟨reply_dctlSet_completes displayMask on hok, reply_dctlSet_completes cursorMask on hok,
    reply_dctlSet_completes blinkMask on hok⟩

/-- Settles O30: each request is `emodeSet` with the mask of its own bit, at the flag positions of G3. -/
theorem entryModeRequestsComplete : Obligations.EntryModeRequestsComplete := by
  intro s on hok
  rw [List.forall_mem_cons, List.forall_mem_cons, List.forall_mem_singleton]
  exact ⟨reply_emodeSet_completes shiftIncrementMask on hok, reply_emodeSet_completes entryLeftMask true hok,
    reply_emodeSet_completes entryLeftMask false hok⟩

/-- Settles O31: the register is written before the send, so a failed send finds it written (the spec's decision
D27). -/
theorem displayStateKeptOnFailure : Obligations.DisplayStateKeptOnFailure := by
  intro s on k hk hf
  constructor
  · rw [List.forall_mem_cons, List.forall_mem_cons, List.forall_mem_singleton]
    exact ⟨reply_dctlSet_fails displayMask on hk hf, reply_dctlSet_fails cursorMask on hk hf,
      reply_dctlSet_fails blinkMask on hk hf⟩
  · rw [List.forall_mem_cons, List.forall_mem_cons, List.forall_mem_singleton]
    exact ⟨reply_emodeSet_fails shiftIncrementMask on hk hf, reply_emodeSet_fails entryLeftMask true hk hf,
      reply_emodeSet_fails entryLeftMask false hk hf⟩

/-! ## One bit of one shadow register (R251 to R256) -/

/-- A bit set or cleared under a mask leaves the bits outside the mask. -/
theorem setOrClear_and_not {n : Nat} (mask v : BitVec n) (on : Bool) :
    (if on then v ||| mask else v &&& ~~~mask) &&& ~~~mask = v &&& ~~~mask := by
  cases on with
  | false => simp [BitVec.and_assoc]
  | true => simp [BitVec.and_or_distrib_right]

/-- A bus program ends, whole or at a failed write, with the shadow registers and the backlight latch it started with. -/
theorem reply_runs_registers {ps : List Prim} {s t : State} {r : Run} (hr : Runs ps s r) (h : reply r = .next t) :
    t.dctl = s.dctl ∧ t.emode = s.emode ∧ t.bl = s.bl := by
  rw [← reply_next h]
  obtain ⟨xv, xrs, nib, ⟨-, rfl⟩ | ⟨k, -, -, rfl⟩⟩ := hr
  · exact ⟨rfl, rfl, rfl⟩
  · exact ⟨rfl, rfl, rfl⟩

theorem reply_dctlSet_frame {mask : BitVec 3} {on : Bool} {s t : State} (h : reply (dctlSet mask on s) = .next t) :
    t.dctl &&& ~~~mask = s.dctl &&& ~~~mask ∧ t.emode = s.emode ∧ t.bl = s.bl := by
  obtain ⟨hdctl, hemode, hbl⟩ := reply_runs_registers (send_runs _ _ (s.setDctl (dctlWith mask on s.dctl))) h
  exact ⟨by rw [hdctl]; exact setOrClear_and_not mask s.dctl on, hemode, hbl⟩

theorem reply_emodeSet_frame {mask : BitVec 2} {on : Bool} {s t : State} (h : reply (emodeSet mask on s) = .next t) :
    t.emode &&& ~~~mask = s.emode &&& ~~~mask ∧ t.dctl = s.dctl ∧ t.bl = s.bl := by
  obtain ⟨hdctl, hemode, hbl⟩ := reply_runs_registers (send_runs _ _ (s.setEmode (emodeWith mask on s.emode))) h
  exact ⟨by rw [hemode]; exact setOrClear_and_not mask s.emode on, hdctl, hbl⟩

/-- Settles O50: each request writes its register under the mask of its own bit, and its send writes no register. -/
theorem oneBitWritten : Obligations.OneBitWritten := by
  intro i s t on h
  refine ⟨?_, ?_, ?_, ?_, ?_⟩
  · rintro rfl
    exact reply_dctlSet_frame (mask := displayMask) h
  · rintro rfl
    exact reply_dctlSet_frame (mask := cursorMask) h
  · rintro rfl
    exact reply_dctlSet_frame (mask := blinkMask) h
  · rintro rfl
    exact reply_emodeSet_frame (mask := shiftIncrementMask) h
  · rintro (rfl | rfl)
    · exact reply_emodeSet_frame (mask := entryLeftMask) h
    · exact reply_emodeSet_frame (mask := entryLeftMask) h

end Sys2Proof.Proofs

/-! PROOFS. The statements of 43_text_layout.md: SET_CURSOR, its checks and its one fault (R280, R281), the strings
(R282 to R284), HOME and CLEAR (R285, R286) and NEXT_LINE (R287); and what a completed PRINT_STR makes the controller
latch (R157, R283). -/

namespace Sys2Proof.Proofs

open Sys2Proof.Machine Sys2Proof.Safety Sys2Proof.Laws

/-! ## A request that completes, and one that ends at a check (R370, R373) -/

section
variable {ps : List Prim} {s : State} {r : Run}

/-- With every write answered `Ok`, a request's events are its whole program and its response is OK. -/
theorem reply_completes (h : Runs ps s r) (hok : AllOk (attempts (progEvents ps)) s) :
    ∃ xv xrs nib, reply r = .next (finished (withWork s xv xrs nib) (progEvents ps) .ok) := by
  obtain ⟨xv, xrs, nib, rfl⟩ := h.completes hok
  exact ⟨xv, xrs, nib, rfl⟩

/-- The same for a request that also writes `CURLINE`. -/
theorem reply_completes_line {line : Byte} {lineAt : Nat → Byte} (h : RunsLine ps s line lineAt r)
    (hok : AllOk (attempts (progEvents ps)) s) :
    ∃ xv xrs nib, reply r = .next (finished (withWork (s.setCurline line) xv xrs nib) (progEvents ps) .ok) := by
  obtain ⟨xv, xrs, nib, rfl⟩ := h.completes hok
  exact ⟨xv, xrs, nib, rfl⟩

end

/-- A check that fails leaves only its response. -/
theorem reply_raise (s : State) (code : Code) : reply (.raise s code) = .next (finished s [] code) := by
  rw [finished_eq_respond, drove_nil]
  rfl

theorem run_andThen_assoc (r : Run) (f g : State → Run) :
    (r.andThen f).andThen g = r.andThen fun t => (f t).andThen g := by
  by_cases h : r.code = .ok <;> simp [Run.andThen, h]

/-! ## SET_CURSOR (R280, R281) -/

section
variable {s : State} {col row addr : Byte} {k : Nat}

theorem exec_setCursor_fits (h : cursorTarget s.cfg col row ≠ .overflow) :
    exec (.setCursor col row) s = reply (setCursor col row s) := if_neg h

theorem exec_setCursor_fault_iff :
    exec (.setCursor col row) s = .fault .addressOverflow ↔ cursorTarget s.cfg col row = .overflow := by
  constructor
  · intro hfault
    by_contra hfits
    rw [exec_setCursor_fits hfits] at hfault
    cases hfault
  · exact fun h => if_pos h

/-- The row check of `set_cursor`. -/
theorem setCursor_rowOutOfBounds (h : s.cfg.rows ≤ row) : setCursor col row s = .raise s .rowOutOfBounds := by
  rw [setCursor, cursorTarget_row h]

/-- The geometry check of `set_cursor`, on a row within bounds. -/
theorem setCursor_unsupportedGeometry (h : row < s.cfg.rows) (hs : ¬ supportedRows s.cfg) :
    setCursor col row s = .raise s .unsupportedGeometry := by
  rw [setCursor, cursorTarget_geometry h hs]

/-- `set_cursor` with its send answered `Ok`. -/
theorem reply_setCursor_completes (h : cursorTarget s.cfg col row = .address addr)
    (hok : AllOk (2 * nibbleWrites s.cfg) s) :
    ∃ xv xrs nib, reply (setCursor col row s) =
      .next (finished (withWork (s.setCurline row) xv xrs nib)
        (sendEvents s.cfg s.bl (0x80#8 ||| addr) false) .ok) := by
  have hrun := reply_completes_line (setCursor_runs h) (by rwa [attempts_sendPrims])
  rwa [sendPrims_events] at hrun

/-- `set_cursor` whose send fails: `CURLINE` is not written (the spec's decision D44). -/
theorem reply_setCursor_fails (h : cursorTarget s.cfg col row = .address addr) (hk : k < 2 * nibbleWrites s.cfg)
    (hf : FailsAfter k s) :
    ∃ xv xrs nib, reply (setCursor col row s) =
      .next (finished (withWork s xv xrs nib)
        (cutAt k (sendEvents s.cfg s.bl (0x80#8 ||| addr) false)) .busWriteFailure) := by
  have hrun := reply_fails_line (setCursor_runs h) (by rwa [attempts_sendPrims]) hf
  rwa [sendPrims_events] at hrun

end

/-- Settles O32: the target of a mapped row whose sum fits is that address (`cursorTarget_address`). -/
theorem setCursorCompletes : Obligations.SetCursorCompletes := by
  intro s col row offset hmapped hsum hok
  have htarget := cursorTarget_address hmapped hsum
  rw [exec_setCursor_fits (by simp [htarget])]
  exact reply_setCursor_completes htarget hok

/-- Settles O33: the two checks of `set_cursor`, the row first. -/
theorem setCursorChecks : Obligations.SetCursorChecks := by
  intro s col row
  constructor
  · intro hrow
    rw [exec_setCursor_fits (by simp [cursorTarget_row hrow]), setCursor_rowOutOfBounds hrow, reply_raise]
  · intro hrow hs
    rw [exec_setCursor_fits (by simp [cursorTarget_geometry hrow hs]), setCursor_unsupportedGeometry hrow hs,
      reply_raise]

/-- Settles O34: the fault is the overflow of the cursor's target, which `cursorTarget_overflow` reads off the table. -/
theorem addressOverflowFaults : Obligations.AddressOverflowFaults := fun s col row =>
  exec_setCursor_fault_iff.trans (cursorTarget_overflow s.cfg col row)

/-- Settles O35, as O32 with the send failing. -/
theorem failedSetCursorKeepsLine : Obligations.FailedSetCursorKeepsLine := by
  intro s col row offset k hmapped hsum hk hf
  have htarget := cursorTarget_address hmapped hsum
  rw [exec_setCursor_fits (by simp [htarget])]
  exact reply_setCursor_fails htarget hk hf

/-! ## PRINT_CHAR and PRINT_STR (R282, R283) -/

/-- Settles O36: PRINT_CHAR is one send, PRINT_STR the program of its bytes' sends (`sendData_runs`). -/
theorem printCompletes : Obligations.PrintCompletes := by
  intro s
  refine ⟨fun ch hok => reply_send_completes ch rsData hok, fun str hok => ?_⟩
  rw [← attempts_dataEvents s.cfg s.bl] at hok
  rw [← dataPrims_events] at hok ⊢
  exact reply_completes (sendData_runs str s) hok

/-- With Enable low before it, a string's transfers latch the nibbles of its bytes, in order, and leave Enable low. -/
theorem data_latches (c : Config) (bl : Bool) (str : List Byte) (m : BusImage)
    (h : enableLevel c.variant m = .known false) :
    latches m (dataEvents c bl str) =
        (str.flatMap fun v => [.nibble true (v.extractLsb' 4 4), .nibble true (v.extractLsb' 0 4)]) ∧
      enableLevel c.variant ((dataEvents c bl str).foldl imageAfter m) = .known false := by
  induction str generalizing m with
  | nil => exact ⟨rfl, h⟩
  | cons v vs ih =>
    obtain ⟨hbyte, hbetween⟩ := send_latches c bl v true m h
    obtain ⟨hrest, hafter⟩ := ih _ hbetween
    have hcons : dataEvents c bl (v :: vs) = sendEvents c bl v true ++ dataEvents c bl vs := rfl
    rw [hcons, latches_append, hbyte, hrest, List.foldl_append]
    exact ⟨rfl, hafter⟩

/-- Settles O56: the new events of a completed PRINT_STR are its bytes' transfers, which latch the string. -/
theorem printStrLatchesText : Obligations.PrintStrLatchesText := by
  intro s str hlow hok
  obtain ⟨xv, xrs, nib, hx⟩ := (printCompletes s).2 str hok
  obtain ⟨hlatch, hafter⟩ := data_latches s.cfg s.bl str s.image hlow
  exact ⟨_, hx, hafter, by rw [newEvents_finished rfl]; exact hlatch⟩

/-! ## PRINT_LONG_STR (R284) -/

theorem wrapRow_zero (c : Config) : wrapRow c 0 = 0#8 := by
  apply BitVec.eq_of_toNat_eq
  simp [wrapRow_toNat]

/-- The row the loop leaves in `CURLINE` is that of the last segment. -/
theorem lineAfter_zero (c : Config) (str : List Byte) :
    lineAfter c 0#8 0 str = BitVec.ofNat 8 (longLastRow c str.length) := by
  have hline := lineAfter_eq c 0 str
  rw [Nat.zero_sub, wrapRow_zero, Nat.zero_add] at hline
  rw [hline, longLastRow, ← wrapRow_toNat, BitVec.ofNat_toNat, BitVec.setWidth_eq]

/-- Settles O37: the cursor move and the loop are one bus program (`printLongStr_runs`), which runs whole. -/
theorem printLongStrCompletes : Obligations.PrintLongStrCompletes := by
  intro s str _ hs hok
  rw [← printLongStrPrims_events] at hok ⊢
  rw [← lineAfter_zero]
  exact reply_completes_line (printLongStr_runs str s hs) hok

/-- Where the first `set_cursor` raises, PRINT_LONG_STR ends there. -/
theorem exec_printLongStr_raise {s : State} {code : Code} (str : List Byte)
    (h : setCursor 0#8 0#8 s = .raise s code) (hcode : code ≠ .ok) :
    exec (.printLongStr str) s = .next (finished s [] code) := by
  have hstop : (Run.raise s code).andThen (printLongFrom 0 str) = .raise s code := if_neg hcode
  rw [← reply_raise, ← hstop, ← h]
  rfl

/-- Settles O38: the checks of the first `set_cursor`, on row 0. -/
theorem printLongStrChecks : Obligations.PrintLongStrChecks := by
  intro s str
  constructor
  · intro hzero
    exact exec_printLongStr_raise str (setCursor_rowOutOfBounds (BitVec.le_of_eq hzero)) (by decide)
  · intro hpos hs
    have hin := (BitVec.pos_iff_ne_zero s.cfg.rows).mpr hpos
    exact exec_printLongStr_raise str (setCursor_unsupportedGeometry hin hs) (by decide)

/-! ## HOME and CLEAR (R285, R286) -/

theorem sendWaitPrims_events (c : Config) (bl : Bool) (v : Byte) (rs : Bool) (n : Half) :
    progEvents (sendPrims c bl v rs ++ [.waitMs n]) = sendEvents c bl v rs ++ [.waitMs n] := by
  rw [progEvents_append, sendPrims_events]
  rfl

theorem attempts_sendWaitPrims (c : Config) (bl : Bool) (v : Byte) (rs : Bool) (n : Half) :
    attempts (progEvents (sendPrims c bl v rs ++ [.waitMs n])) = 2 * nibbleWrites c := by
  rw [progEvents_append, attempts_append, attempts_sendPrims]
  rfl

/-- Settles O40: HOME is ReturnHome with its ignored bit 0, and writes no register. -/
theorem homeRequest : Obligations.HomeRequest := by
  refine ⟨rfl, fun s => ⟨fun hok => ?_, fun k hk hf => ?_⟩⟩
  · have hrun := reply_completes (homeAndWait_runs 0#1 s) (by rwa [attempts_sendWaitPrims])
    rwa [sendWaitPrims_events] at hrun
  · exact stopsAs_of_send_andThen (i := .home) (f := fun t => waitMs t.cfg.tHomeMs t) rfl hk hf

/-- Settles O41: CLEAR is ClearDisplay with its wait and then the write of `CURLINE`; a failed send skips both. -/
theorem clearRequest : Obligations.ClearRequest := by
  refine ⟨rfl, fun s => ⟨fun hok => ?_, fun k hk hf => ?_⟩⟩
  · have hrun := reply_completes_line ((clearAndWait_runs s).thenLine 0#8) (by rwa [attempts_sendWaitPrims])
    rwa [sendWaitPrims_events] at hrun
  · exact stopsAs_of_send_andThen (i := .clear) (congrArg reply (run_andThen_assoc ..)) hk hf

/-! ## NEXT_LINE (R287) -/

/-- On more than one row NEXT_LINE writes the next row to `CURLINE` and then moves the cursor there. -/
theorem exec_nextLine {s : State} (h : s.cfg.rows ≠ 1#8) :
    exec .nextLine s =
      reply (setCursor 0#8 (nextRow s.cfg s.curline) (s.setCurline (nextRow s.cfg s.curline))) := if_neg h

theorem nextRow_wraps {c : Config} {curline : Byte} (h : c.rows ≤ curline) : nextRow c curline = 0#8 := if_pos h

theorem nextRow_steps {c : Config} {curline : Byte} (h : curline < c.rows) : nextRow c curline = curline + 1#8 :=
  if_neg (BitVec.not_le.mpr h)

/-- A `CURLINE` below another byte has a successor. -/
theorem toNat_add_one_of_lt {a b : Byte} (h : a < b) : (a + 1#8).toNat = a.toNat + 1 := by
  bv_omega

theorem nextRow_toNat (c : Config) (curline : Byte) :
    (nextRow c curline).toNat = if c.rows ≤ curline then 0 else curline.toNat + 1 := by
  by_cases h : c.rows ≤ curline
  · rw [nextRow_wraps h, if_pos h]
    rfl
  · have hlt := BitVec.not_le.mp h
    rw [nextRow_steps hlt, if_neg h, toNat_add_one_of_lt hlt]

theorem rowOffset_le {rows row : Byte} {offset : Nat} (h : (rows, row, offset) ∈ rowOffsetTable) : offset ≤ 0x54 := by
  have hentry : ∀ e ∈ rowOffsetTable, e.2.2 ≤ 0x54 := by decide
  exact hentry _ h

/-- With column 0 the target of a mapped row is its offset. -/
theorem cursorTarget_column_zero {c : Config} {row : Byte} {offset : Nat} (h : (c.rows, row, offset) ∈ rowOffsetTable) :
    cursorTarget c 0#8 row = .address (BitVec.ofNat 8 offset) := by
  have hle := rowOffset_le h
  have hsum : (0#8).toNat + offset = offset := Nat.zero_add offset
  rw [cursorTarget_address h (by omega), hsum]

/-- Settles O42: `CURLINE` is written before `set_cursor`, so it stands whether or not the send succeeds. -/
theorem nextLineCompletes : Obligations.NextLineCompletes := by
  intro s row offset hrows hmapped hrow
  obtain rfl : row = nextRow s.cfg s.curline := BitVec.eq_of_toNat_eq (by rw [hrow, nextRow_toNat])
  have htarget := cursorTarget_column_zero hmapped
  rw [exec_nextLine hrows]
  constructor
  · intro hok
    exact reply_setCursor_completes (s := s.setCurline _) htarget hok
  · intro k hk hf
    exact reply_setCursor_fails (s := s.setCurline _) htarget hk hf

section
variable {s : State} {row : Byte}

/-- NEXT_LINE where the row it steps to is none of the display. -/
theorem exec_nextLine_rowOutOfBounds (hrows : s.cfg.rows ≠ 1#8) (hrow : nextRow s.cfg s.curline = row)
    (hout : s.cfg.rows ≤ row) :
    exec .nextLine s = .next (finished { s with curline := row } [] .rowOutOfBounds) := by
  rw [exec_nextLine hrows, hrow, setCursor_rowOutOfBounds (s := s.setCurline row) hout, reply_raise]
  rfl

/-- NEXT_LINE where the row count has no mapping. -/
theorem exec_nextLine_unsupportedGeometry (hs : ¬ supportedRows s.cfg) (hrow : nextRow s.cfg s.curline = row)
    (hin : row < s.cfg.rows) :
    exec .nextLine s = .next (finished { s with curline := row } [] .unsupportedGeometry) := by
  rw [exec_nextLine fun h => hs (.inl h), hrow, setCursor_unsupportedGeometry (s := s.setCurline row) hin hs,
    reply_raise]
  rfl

end

/-- Settles O43: which row NEXT_LINE steps to (`nextRow`) against the row count, clause by clause. -/
theorem nextLineChecks : Obligations.NextLineChecks := by
  intro s
  refine ⟨fun hone => ?_, fun hrows hlast => ?_, fun hzero => ?_, fun hs _ hbelow => ?_, fun hs hpos hpast => ?_⟩
  · exact (if_pos hone).trans (reply_raise s _)
  · have hlt : s.curline < s.cfg.rows := BitVec.lt_def.mpr (by omega)
    have hstep : s.curline + 1#8 = s.cfg.rows := BitVec.eq_of_toNat_eq ((toNat_add_one_of_lt hlt).trans hlast)
    exact exec_nextLine_rowOutOfBounds hrows ((nextRow_steps hlt).trans hstep) (BitVec.le_refl _)
  · have hle (b : Byte) : s.cfg.rows ≤ b := BitVec.not_lt.mp (hzero ▸ BitVec.not_lt_zero)
    exact exec_nextLine_rowOutOfBounds (by rw [hzero]; decide) (nextRow_wraps (hle _)) (hle _)
  · have hlt : s.curline < s.cfg.rows := BitVec.lt_def.mpr (by omega)
    refine exec_nextLine_unsupportedGeometry hs (nextRow_steps hlt) (BitVec.lt_def.mpr ?_)
    rwa [toNat_add_one_of_lt hlt]
  · exact exec_nextLine_unsupportedGeometry hs (nextRow_wraps hpast) ((BitVec.pos_iff_ne_zero _).mpr hpos)

end Sys2Proof.Proofs

/-! PROOFS. The statements of 44_custom_char.md: CREATE_CHAR on a slot the controller has sends the slot's CGRAM address
and then the bitmap, and on any other slot it ends at its check (R320). -/

namespace Sys2Proof.Proofs

open Sys2Proof.Machine Sys2Proof.Safety Sys2Proof.Laws

/-! ## The slot check of CREATE_CHAR -/

section
variable {s : State} {slot : Byte} {bitmap : List Byte}

/-- CREATE_CHAR where the slot passes the check. -/
theorem exec_createChar_inRange (h : slot ≤ 7#8) :
    exec (.createChar slot bitmap) s =
      reply ((send (slotCommand slot) rsCommand s).andThen (sendData bitmap)) := if_neg (BitVec.not_lt.mpr h)

/-- CREATE_CHAR where the slot fails the check. -/
theorem exec_createChar_outOfRange (h : 7#8 < slot) :
    exec (.createChar slot bitmap) s = reply (.raise s .slotOutOfBounds) := if_pos h

end

/-! ## CREATE_CHAR completes, or ends at its check -/

/-- The bus writes of CREATE_CHAR: one transfer for the address and one for each byte of the bitmap. -/
theorem attempts_createCharEvents (c : Config) (bl : Bool) (v : Byte) (bitmap : List Byte) :
    attempts (sendEvents c bl v false ++ dataEvents c bl bitmap) =
      (bitmap.length + 1) * (2 * nibbleWrites c) := by
  rw [attempts_append, attempts_sendEvents, attempts_dataEvents]
  ring

/-- Settles O44: the address command and the bitmap are one bus program (`createChar_runs`) of nine transfers, which
runs whole (that the bytes go out unmasked is the spec's decision D42). -/
theorem createCharCompletes : Obligations.CreateCharCompletes := by
  intro s slot bitmap hslot hlen hok
  have hwrites := attempts_createCharEvents s.cfg s.bl (0x40#8 ||| slot <<< 3) bitmap
  rw [hlen] at hwrites
  rw [← hwrites] at hok
  rw [← createCharPrims_events] at hok ⊢
  rw [exec_createChar_inRange hslot]
  exact reply_completes (createChar_runs slot bitmap s) hok

/-- Settles O45: the slot check stands before the first send. -/
theorem createCharChecksSlot : Obligations.CreateCharChecksSlot := fun s _ _ hslot =>
  (exec_createChar_outOfRange hslot).trans (reply_raise s _)

end Sys2Proof.Proofs

/-! PROOFS. The statements of 48_controller_commands.md: each controller command is one transfer of its byte with its
own wait behind it (R330 to R339, R342), and a handshake nibble is one nibble transaction (R340, R341). -/

namespace Sys2Proof.Proofs

open Sys2Proof.Machine Sys2Proof.Safety Sys2Proof.Laws

/-! ## Commands of one transfer (R330) -/

section
variable {i : Instr} {s : State} {v : Byte} {rs : Bool}

/-- A command with nothing behind its transfer. -/
theorem transfersAs_of_send (hi : exec i s = reply (send v rs s)) (hok : AllOk (2 * nibbleWrites s.cfg) s) :
    TransfersAs i s rs v [] := by
  rw [TransfersAs, List.append_nil, hi]
  exact reply_send_completes v rs hok

/-- A command with a wait behind its transfer. -/
theorem transfersAs_of_send_waitMs {n : Half} {r : Run} (hi : exec i s = reply r)
    (hr : Runs (sendPrims s.cfg s.bl v rs ++ [.waitMs n]) s r) (hok : AllOk (2 * nibbleWrites s.cfg) s) :
    TransfersAs i s rs v [.waitMs n] := by
  rw [TransfersAs, hi, ← sendWaitPrims_events]
  exact reply_completes hr (by rwa [attempts_sendWaitPrims])

end

/-- Settles O46: ClearDisplay and ReturnHome are one transfer and a wait, every other row is one transfer. That a row
run by itself keeps the wait of its rule is the model's reading (log 8). -/
theorem commandTransfersComplete : Obligations.CommandTransfersComplete := by
  intro s hok
  refine ⟨?_, fun x => ?_, fun e h => ?_, fun d c b => ?_, fun p r x => ?_, fun l n f x => ?_, fun a => ?_,
    fun a => ?_, fun d => ?_, ?_⟩
  · exact transfersAs_of_send_waitMs rfl (clearAndWait_runs s) hok
  · exact transfersAs_of_send_waitMs rfl (returnHomeByte_eq x ▸ homeAndWait_runs x s) hok
  · exact transfersAs_of_send (entryModeSetByte_eq e h ▸ rfl) hok
  · exact transfersAs_of_send (displayControlByte_eq d c b ▸ rfl) hok
  · exact transfersAs_of_send (cursorShiftByte_eq p r x ▸ rfl) hok
  · exact transfersAs_of_send (functionSetByte_eq l n f x ▸ rfl) hok
  · exact transfersAs_of_send (setCGRAMAddrByte_eq a ▸ rfl) hok
  · exact transfersAs_of_send (setDDRAMAddrByte_eq a ▸ rfl) hok
  · exact transfersAs_of_send rfl hok
  · exact transfersAs_of_send rfl hok

/-! ## Handshake nibbles (R340, R341) -/

/-- Handshake nibble 0x3 with the wait behind it is one bus program. -/
theorem handshakeNibble3_runs (s : State) :
    Runs (nibblePrims s.cfg s.bl 0x30#8 false ++ [.waitUs s.cfg.tInit3Us]) s
      ((nibbleTx 0x30#8 rsCommand s).andThen fun t => waitUs t.cfg.tInit3Us t) :=
  (nibbleTx_runs 0x30#8 rsCommand s).andThen fun _ _ _ => waitUs_runs _ _

theorem nibbleWaitPrims_events (c : Config) (bl : Bool) (nib : Byte) (rs : Bool) (n : Half) :
    progEvents (nibblePrims c bl nib rs ++ [.waitUs n]) = nibbleEvents c bl nib rs ++ [.waitUs n] := by
  rw [progEvents_append, nibblePrims_events]
  rfl

theorem attempts_nibbleWaitEvents (c : Config) (bl : Bool) (nib : Byte) (rs : Bool) (n : Half) :
    attempts (nibbleEvents c bl nib rs ++ [.waitUs n]) = nibbleWrites c := by
  rw [attempts_append, attempts_nibbleEvents]
  rfl

/-- Settles O47: either nibble is one bus program, which runs whole. That a nibble can be run by itself is the model's
choice (logs 5 and 8). -/
theorem handshakeNibblesComplete : Obligations.HandshakeNibblesComplete := by
  intro s hok
  constructor
  · rw [← attempts_nibbleWaitEvents s.cfg s.bl 0x30#8 false s.cfg.tInit3Us] at hok
    rw [← nibbleWaitPrims_events] at hok ⊢
    exact reply_completes (handshakeNibble3_runs s) hok
  · rw [← attempts_nibbleEvents s.cfg s.bl 0x20#8 false] at hok
    rw [← nibblePrims_events] at hok ⊢
    exact reply_completes (nibbleTx_runs 0x20#8 rsCommand s) hok

end Sys2Proof.Proofs

/-! PROOFS. The statements of 60_exceptions.md: the numbers of the response codes (R370), the response an instruction
ends with (R371), and the two cases in which an instruction stops instead (R377). -/

namespace Sys2Proof.Proofs

open Sys2Proof.Machine Sys2Proof.Safety Sys2Proof.Laws

/-- Settles O11: `codeNumber` is the list of R370 row by row (the numbers are the spec's decision D20). -/
theorem responseCodeNumbers : Obligations.ResponseCodeNumbers :=
  ⟨rfl, rfl, rfl, rfl, rfl, rfl, rfl⟩

/-! ## One response, of the instruction's own row (R371, R376) -/

/-- The registers a request writes are not the responses. -/
theorem regsFrom_responses {i : Instr} {s r : State} (regs : RegsFrom i s r) : r.responses = s.responses := by
  obtain ⟨_, _, _, _, _, rfl⟩ := regs.same
  rfl

/-- A request that ends appends its one response code and nothing else to the responses. -/
theorem finished_responses {i : Instr} {s r : State} (regs : RegsFrom i s r) (es : List Event) (code : Code)
    (xv : Byte) (xrs : Bool) (nib : Byte) :
    (finished (withWork r xv xrs nib) es code).responses = s.responses ++ [code] := by
  rw [← regsFrom_responses regs]
  rfl

/-- Settles O48, by the two ways an instruction ends (`exec_ends`): its code is one of the instruction's row (for
the command rows and the nibbles the row is the model's reading, log 8). -/
theorem responsesFollowMatrix : Obligations.ResponsesFollowMatrix := by
  intro i s t h
  cases exec_ends h with
  | whole r ps code xv xrs nib regs fits answered noBus row =>
    exact ⟨code, finished_responses regs _ code xv xrs nib, row⟩
  | cut r ps k code xv xrs nib regs fits lt fails bus row =>
    exact ⟨code, finished_responses regs _ code xv xrs nib, row⟩

/-! ## The two stops (R200, R281, R377) -/

/-- Every instruction answers a next state but INIT in READY and a SET_CURSOR whose target overflows. -/
theorem exec_answers {i : Instr} {s : State} (hinit : i = .init → s.seq ≠ .ready)
    (hfits : ∀ col row, i = .setCursor col row → cursorTarget s.cfg col row ≠ .overflow) :
    ∃ t, exec i s = .next t := by
  cases i with
  | init => exact ⟨_, exec_init_notReady (hinit rfl)⟩
  | setCursor col row => exact ⟨_, exec_setCursor_fits (hfits col row rfl)⟩
  | nextLine =>
    by_cases hrows : s.cfg.rows = 1#8
    · exact ⟨_, if_pos hrows⟩
    · exact ⟨_, exec_nextLine hrows⟩
  | createChar slot bitmap =>
    by_cases hslot : 7#8 < slot
    · exact ⟨_, exec_createChar_outOfRange hslot⟩
    · exact ⟨_, exec_createChar_inRange (BitVec.not_lt.mp hslot)⟩
  | _ => exact ⟨_, rfl⟩

/-- Settles O52: where an instruction does not answer (`exec_answers`), it is INIT in READY, which is refused, or a
SET_CURSOR whose overflowing target `cursorTarget_overflow` reads off the table (the spec's decisions D16 and D23; that
INIT runs from the codes of R201 is the model's reading, log 10). -/
theorem onlyTwoStops : Obligations.OnlyTwoStops := by
  intro i s
  by_cases hinit : i = .init ∧ s.seq = .ready
  · obtain ⟨rfl, hready⟩ := hinit
    exact .inr (.inl ⟨rfl, hready, exec_init_ready hready⟩)
  by_cases hover : ∃ col row, i = .setCursor col row ∧ cursorTarget s.cfg col row = .overflow
  · obtain ⟨col, row, rfl, hoverflow⟩ := hover
    obtain ⟨offset, hmapped, hsum⟩ := (cursorTarget_overflow s.cfg col row).mp hoverflow
    exact .inr (.inr ⟨col, row, offset, rfl, hmapped, hsum, exec_setCursor_fault_iff.mpr hoverflow⟩)
  · exact .inl (exec_answers (fun hi hready => hinit ⟨hi, hready⟩) fun col row hi ho => hover ⟨col, row, hi, ho⟩)

end Sys2Proof.Proofs

/-! PROOFS. The statements of 70_reset_and_hazards.md: what construction leaves (R410, R411), what the controller has
latched when a send fails (R419) and when Enable's level was unknown before it (R420), and the least total waits of
completed requests (R425). -/

namespace Sys2Proof.Proofs

open Sys2Proof.Machine Sys2Proof.Safety Sys2Proof.Laws

/-! ## Construction (R410, R411) -/

/-- Settles O9: `State.resetOf` is the list of R411 field by field (the zeros are the spec's decision D13, the image its
decision D30, `BL_INIT` an open parameter). -/
theorem resetLeaves : Obligations.ResetLeaves := fun _ => ⟨rfl, rfl, rfl, rfl, rfl, rfl, rfl, rfl, rfl⟩

/-- A constructed state meets the invariant: `SEQ` is POWER_UP, `CURLINE` is 0 and nothing has been driven. -/
theorem inv_resetOf {c : Config} (hcols : c.cols ≠ 0#8) : Inv (State.resetOf c) where
  cols := hcols
  seq := rfl
  curline := Nat.zero_le _
  trace := fun _ he => absurd he List.not_mem_nil
  image := imageFits_allUnknown c

/-- Settles O54: reset is construction with `Config.standard`, which has 16 columns. -/
theorem invariantAtReset : Obligations.InvariantAtReset := ⟨fun _ => inv_resetOf, inv_resetOf (by decide)⟩

/-! ## What a failed send makes the controller latch (R419) -/

section
variable {c : Config} {m : BusImage} {k : Nat}

/-- With Enable low before it, a nibble transaction that fails latches nothing certain: nothing at all before its last
write, which drives Enable low, and at that write possibly the nibble. -/
theorem cutNibble_latches (bl : Bool) (nib : Byte) (rs : Bool) (hlow : enableLevel c.variant m = .known false)
    (hk : k < nibbleWrites c) :
    latches m (cutAt k (nibbleEvents c bl nib rs)) = if k + 1 < nibbleWrites c then [] else [.uncertain] := by
  cases hv : c.variant with
  | expander =>
    rw [hv] at hlow
    obtain ⟨b, hout, hb⟩ := enableLevel_known hlow
    obtain ⟨hpresent, -, -⟩ := presentByte_fields nib bl rs
    simp only [nibbleWrites, hv] at hk ⊢
    simp only [nibbleEvents, hv, byteEvent, w1, w50]
    generalize (nib &&& 0xF0#8) ||| (if bl then 0x08#8 else 0#8) ||| (if rs then 0x01#8 else 0#8) = h0 at hpresent ⊢
    interval_cases k <;>
      simp [cutAt, latches, latchOf, writeLatch, edgeLatch, imageAfter, BusImage.put, enableLevel, hpresent, hout, hb]
  | discrete =>
    simp only [nibbleWrites, hv] at hk ⊢
    simp only [nibbleEvents, hv, lineEvent, w1, w50]
    interval_cases k <;>
      simp [cutAt, latches, latchOf, writeLatch, edgeLatch, imageAfter, BusImage.put, enableLevel]

/-- A send that fails in its high nibble has put no event of the low nibble on the bus. -/
theorem cutAt_sendEvents_high (bl : Bool) (v : Byte) (rs : Bool) (hk : k < nibbleWrites c) :
    cutAt k (sendEvents c bl v rs) = cutAt k (nibbleEvents c bl (v &&& 0xF0#8) rs) := by
  rw [sendEvents, ← nibblePrims_events c bl (v &&& 0xF0#8)]
  exact cutAt_append_left _ _ _ (by rwa [nibblePrims_events, attempts_nibbleEvents])

/-- A send that fails in its low nibble has put the whole high nibble on the bus. -/
theorem cutAt_sendEvents_low (bl : Bool) (v : Byte) (rs : Bool) (k : Nat) :
    cutAt (nibbleWrites c + k) (sendEvents c bl v rs) =
      nibbleEvents c bl (v &&& 0xF0#8) rs ++ cutAt k (nibbleEvents c bl (v <<< 4) rs) := by
  rw [sendEvents, ← attempts_nibbleEvents c bl (v &&& 0xF0#8) rs, ← nibblePrims_events]
  exact cutAt_append_right _ _ _

/-- The table of R419. -/
theorem cutSend_latches (bl : Bool) (v : Byte) (rs : Bool) (hlow : enableLevel c.variant m = .known false)
    (hk : k < 2 * nibbleWrites c) :
    latches m (cutAt k (sendEvents c bl v rs)) =
      if k + 1 < nibbleWrites c then []
      else if k + 1 = nibbleWrites c then [.uncertain]
      else if k + 1 < 2 * nibbleWrites c then [.nibble rs (v.extractLsb' 4 4)]
      else [.nibble rs (v.extractLsb' 4 4), .uncertain] := by
  rcases Nat.lt_or_ge k (nibbleWrites c) with hhigh | hge
  · rw [cutAt_sendEvents_high bl v rs hhigh, cutNibble_latches bl _ rs hlow hhigh]
    rcases Nat.lt_or_eq_of_le (Nat.succ_le_of_lt hhigh) with hbefore | hlast
    · rw [if_pos hbefore, if_pos hbefore]
    · rw [if_neg hlast.not_lt, if_neg hlast.not_lt, if_pos hlast]
  · obtain ⟨j, rfl⟩ := Nat.exists_eq_add_of_le hge
    obtain ⟨hfirst, hbetween⟩ := nibble_latches c bl (v &&& 0xF0#8) rs m hlow
    rw [highNibble_field] at hfirst
    rw [cutAt_sendEvents_low, latches_append, hfirst, cutNibble_latches bl _ rs hbetween (by omega)]
    have hpast : ¬ nibbleWrites c + j + 1 < nibbleWrites c := by omega
    have hpast' : ¬ nibbleWrites c + j + 1 = nibbleWrites c := by omega
    by_cases hbefore : j + 1 < nibbleWrites c
    · rw [if_pos hbefore, if_neg hpast, if_neg hpast', if_pos (by omega)]
      rfl
    · rw [if_neg hbefore, if_neg hpast, if_neg hpast', if_neg (by omega)]
      rfl

end

/-- The new events of a request of one transfer whose write `k` fails. -/
theorem newEvents_of_failed_send {i : Instr} {s t : State} {v : Byte} {rs : Bool} {k : Nat}
    (hi : exec i s = reply (send v rs s)) (hk : k < 2 * nibbleWrites s.cfg) (hf : FailsAfter k s)
    (hx : exec i s = .next t) : newEvents s t = cutAt k (sendEvents s.cfg s.bl v rs) := by
  obtain ⟨xv, xrs, nib, hstops⟩ := stopsAs_of_send hi hk hf
  cases hx.symm.trans hstops
  exact newEvents_finished rfl ..

/-- Settles O58: the new events of a failed send are its transfer's up to the failed write, which latch what the table
says (`cutSend_latches`). What the observer calls uncertain is the model's (log 12). -/
theorem failedSendLatches : Obligations.FailedSendLatches := by
  intro s t v k hlow hk hf
  refine List.forall_mem_cons.mpr ⟨fun hx => ?_, List.forall_mem_singleton.mpr fun hx => ?_⟩
  · rw [newEvents_of_failed_send (rs := rsCommand) rfl hk hf hx]
    exact cutSend_latches s.bl v false hlow hk
  · rw [newEvents_of_failed_send (rs := rsData) rfl hk hf hx]
    exact cutSend_latches s.bl v true hlow hk

/-! ## A send with Enable's level unknown before it (R420) -/

/-- What presenting a nibble may latch where Enable's level is unknown: the byte of EXPANDER drives E low, the line
writes of DISCRETE do not touch it. -/
def presentLatches : Variant → List Latch
  | .expander => [.uncertain]
  | .discrete => []

section
variable (c : Config) (bl : Bool) (rs : Bool) (m : BusImage)

/-- A nibble transaction from an unknown level of Enable latches its nibble after that, and leaves Enable low. -/
theorem nibble_latchesLow_of_unknown (nib : Byte) (h : enableLevel c.variant m = .unknown) :
    LatchesLow c.variant m (nibbleEvents c bl nib rs)
      (presentLatches c.variant ++ [.nibble rs (nib.extractLsb' 4 4)]) := by
  cases hv : c.variant with
  | expander =>
    rw [hv] at h
    obtain ⟨hlow, hrs, hdata⟩ := presentByte_fields nib bl rs
    simp only [nibbleEvents, hv, byteEvent, w1, w50]
    generalize (nib &&& 0xF0#8) ||| (if bl then 0x08#8 else 0#8) ||| (if rs then 0x01#8 else 0#8) = h0 at *
    constructor
    · simp [presentLatches, latches, latchOf, writeLatch, edgeLatch, imageAfter, BusImage.put, enableLevel, byteLatch,
        enableLevel_unknown h, hlow, hrs, hdata]
    · simp [imageAfter, BusImage.put, enableLevel, hlow]
  | discrete =>
    simp only [nibbleEvents, hv, lineEvent, w1, w50]
    constructor
    · simp [presentLatches, latches, latchOf, writeLatch, edgeLatch, imageAfter, BusImage.put, enableLevel, lineLatch,
        ← nibble_lines]
    · rfl

/-- The high nibble leaves Enable low, so only the first presenting write is uncertain. -/
theorem send_latches_of_unknown (v : Byte) (h : enableLevel c.variant m = .unknown) :
    latches m (sendEvents c bl v rs) =
      presentLatches c.variant ++ [.nibble rs (v.extractLsb' 4 4), .nibble rs (v.extractLsb' 0 4)] := by
  obtain ⟨hlatches, -⟩ := (nibble_latchesLow_of_unknown c bl rs m (v &&& 0xF0#8) h).append
    fun m' => nibble_latches c bl (v <<< 4) rs m'
  rw [sendEvents, hlatches, highNibble_field, lowNibble_field, List.append_assoc]
  rfl

end

/-- Settles O59: the new events of a completed send are its transfer's (`send_latches_of_unknown`). What the observer
calls uncertain is the model's (log 12). -/
theorem enableLeftHigh : Obligations.EnableLeftHigh := by
  intro s v hunknown hok
  refine List.forall_mem_cons.mpr ⟨?_, List.forall_mem_singleton.mpr ?_⟩
  · obtain ⟨xv, xrs, nib, hx⟩ := sendcCompletes s v hok
    exact ⟨_, hx, by rw [newEvents_finished rfl]; exact send_latches_of_unknown s.cfg s.bl false s.image v hunknown⟩
  · obtain ⟨xv, xrs, nib, hx⟩ := senddCompletes s v hok
    exact ⟨_, hx, by rw [newEvents_finished rfl]; exact send_latches_of_unknown s.cfg s.bl true s.image v hunknown⟩

/-! ## The least total waits (R425) -/

section
variable {c : Config} (h : c.DefaultTiming) (bl : Bool)
include h

/-- A nibble transaction waits 1 us while Enable is high and 50 us after it falls (R6). -/
theorem totalMicros_nibbleEvents_default (nib : Byte) (rs : Bool) : totalMicros (nibbleEvents c bl nib rs) = 51 := by
  obtain ⟨hhigh, hsettle, -⟩ := h
  rw [totalMicros_nibbleEvents, hhigh, hsettle]
  rfl

theorem totalMicros_sendEvents_default (v : Byte) (rs : Bool) : totalMicros (sendEvents c bl v rs) = 102 := by
  rw [sendEvents, totalMicros_append, totalMicros_nibbleEvents_default h, totalMicros_nibbleEvents_default h]

/-- ClearDisplay and ReturnHome, with the 2 ms behind their transfers (R331, R332). -/
theorem totalMicros_sendWait_default (v : Byte) (rs : Bool) {n : Half} (hn : n = 2#16) :
    totalMicros (sendEvents c bl v rs ++ [.waitMs n]) = 2102 := by
  rw [totalMicros_append, totalMicros_sendEvents_default h, hn]
  rfl

theorem totalMicros_dataEvents_default (str : List Byte) : totalMicros (dataEvents c bl str) = 102 * str.length := by
  induction str with
  | nil => rfl
  | cons v vs ih =>
    have hcons : dataEvents c bl (v :: vs) = sendEvents c bl v true ++ dataEvents c bl vs := rfl
    rw [hcons, totalMicros_append, totalMicros_sendEvents_default h, ih, List.length_cons]
    omega

/-- INIT: fourteen nibble transactions, three waits of 4500 us and waits of 50, 1000, 2 and 2 ms (R213). -/
theorem totalMicros_initEvents_default : totalMicros (initEvents c bl) = 1068214 := by
  have hassert : totalMicros (assertEvents c bl) = 0 := by
    cases hv : c.variant <;> simp only [assertEvents, hv] <;> rfl
  simp only [initEvents, initHead, initMiddle, initTail, totalMicros_append, hassert,
    totalMicros_nibbleEvents_default h, totalMicros_sendEvents_default h]
  obtain ⟨-, -, hpwrA, hpwrB, hinit3, hclear, hhome⟩ := h
  rw [hpwrA, hpwrB, hinit3, hclear, hhome]
  rfl

end

/-- A request that ends after the events `es` has waited at least their total. -/
theorem leastWait_of_finished {i : Instr} {s r : State} {es : List Event} {code : Code} {n : Nat}
    (htrace : r.trace = s.trace)
    (hx : ∃ xv xrs nib, exec i s = .next (finished (withWork r xv xrs nib) es code)) (hn : totalMicros es = n) :
    ∃ t, exec i s = .next t ∧ totalMicros (newEvents s t) = n := by
  obtain ⟨xv, xrs, nib, hx⟩ := hx
  exact ⟨_, hx, by rw [newEvents_finished htrace, hn]⟩

/-- Settles O60: each completed request has produced its event list, and the waits of that list are added up. The
nibble runs by itself by logs 5 and 8. -/
theorem leastWaits : Obligations.LeastWaits := by
  intro s htime
  have hsend := totalMicros_sendEvents_default htime s.bl
  have hdata := totalMicros_dataEvents_default htime s.bl
  have hwait {v rs n} := totalMicros_sendWait_default htime s.bl v rs (n := n)
  obtain ⟨-, hclear⟩ := clearRequest
  obtain ⟨-, hhome⟩ := homeRequest
  have ⟨_, _, _, _, _, htclear, hthome⟩ := htime
  refine ⟨fun hok v => ?_, fun hok => ?_, fun hs hok => ?_, fun slot bitmap hslot hlen hok => ?_, fun str hok => ?_⟩
  · refine List.forall_mem_cons.mpr ⟨?_, List.forall_mem_cons.mpr ⟨?_, List.forall_mem_cons.mpr
      ⟨?_, List.forall_mem_singleton.mpr ?_⟩⟩⟩
    · exact leastWait_of_finished rfl (sendcCompletes s v hok) (hsend v false)
    · exact leastWait_of_finished rfl (senddCompletes s v hok) (hsend v true)
    · exact leastWait_of_finished (r := { s with curline := 0#8 }) rfl ((hclear s).1 hok) (hwait htclear)
    · exact leastWait_of_finished rfl ((hhome s).1 hok) (hwait hthome)
  · exact leastWait_of_finished rfl (handshakeNibblesComplete s hok).2 (totalMicros_nibbleEvents_default htime ..)
  · obtain ⟨t, hx, -, hnew, -⟩ := init_observation hs hok
    exact ⟨t, hx, by rw [hnew, totalMicros_initEvents_default htime]⟩
  · exact leastWait_of_finished rfl (createCharCompletes s slot bitmap hslot hlen hok)
      (by rw [totalMicros_append, hsend, hdata, hlen])
  · exact leastWait_of_finished rfl ((printCompletes s).2 str hok) (hdata str)

end Sys2Proof.Proofs
